-- ==== Sys2Proof/Word.lean ====
section
/-! DEFINITION. The widths of the engine's data (spec/00_scope.md R8, R10). -/

namespace Sys2Proof

/-- "A byte is 8 bits" (R8). -/
abbrev Byte := BitVec 8

/-- "a word is 32 bits" (R8). -/
abbrev Word := BitVec 32

/-- The 4-bit fields ERR, EK_NR, EK_NK, RC, KX_NK, KX_NR (R33, R51, R53). -/
abbrev Nibble := BitVec 4

/-- The 16 bytes of the cipher state; entry i is `ST[i]` (R10). -/
abbrev Block := Vector Byte 16

end Sys2Proof
end

