-- ==== Sys2Proof/Syntax.lean ====
section
/-! DEFINITION. The commands of the engine, one constructor per row of spec/opcode_table.json (spec/30_encoding.md R113). -/

namespace Sys2Proof

/-- A command (R15: "the analogue of an instruction"). All operands but ARK's round are fixed registers (R112). -/
inductive Instr where
  /-- no operation (R286) -/
  | nop
  /-- expand the cipher key (R190) -/
  | keyexp
  /-- encrypt the state (R260) -/
  | enc
  /-- decrypt the state (R265) -/
  | dec
  /-- AddRoundKey of round key `round`, written `ARK r` with r in 0..15 (R116, R240) -/
  | ark (round : Nat)
  /-- ByteSub (R220) -/
  | sb
  /-- InvByteSub (R222) -/
  | isb
  /-- ShiftRow (R226) -/
  | sr
  /-- InvShiftRow (R228) -/
  | isr
  /-- MixColumn (R232) -/
  | mc
  /-- InvMixColumn (R234) -/
  | imc
  /-- GF(2^8) multiply (R170) -/
  | gfmul
  deriving DecidableEq, Repr

end Sys2Proof
end

