-- ==== Sys2Proof/WellFormed.lean ====
section
/-! DEFINITION. Which commands have an encoding. -/

namespace Sys2Proof

/-- "`r` a decimal round number 0..15" (R116): ROUND is a 4-bit field (R110). No other command has an operand (R112). -/
def Instr.wellFormed : Instr → Bool
  | .nop => true
  | .keyexp => true
  | .enc => true
  | .dec => true
  | .ark round => decide (round < 16)
  | .sb => true
  | .isb => true
  | .sr => true
  | .isr => true
  | .mc => true
  | .imc => true
  | .gfmul => true

end Sys2Proof
end

