-- ==== Sys2Proof/Decode.lean ====
section
/-! DEFINITION. Decoding of command words, total on all 2^32 words, and the encoder (spec/30_encoding.md R110 to R116). -/

namespace Sys2Proof

/-- OP, bits 7:0 (R110). -/
def opField (w : Word) : BitVec 8 := w.extractLsb' 0 8

/-- ROUND, bits 11:8 (R110). -/
def roundField (w : Word) : BitVec 4 := w.extractLsb' 8 4

/-- RSVD, bits 31:12 (R110). -/
def rsvdField (w : Word) : BitVec 20 := w.extractLsb' 12 20

/-- Why a word is ILLEGAL (R115). -/
inductive DecodeError where
  /-- "RSVD not zero" -/
  | reservedField
  /-- "ROUND not zero with OP other than 0x04" -/
  | roundField
  /-- "OP in 0x0C..0xFF" -/
  | unassignedOpcode
  deriving DecidableEq, Repr

/-- The row of R113 with operation code `op`, for the rows with no operand. -/
def decodeOp (op : Nat) : Except DecodeError Instr :=
  match op with
  | 0x00 => .ok .nop
  | 0x01 => .ok .keyexp
  | 0x02 => .ok .enc
  | 0x03 => .ok .dec
  | 0x05 => .ok .sb
  | 0x06 => .ok .isb
  | 0x07 => .ok .sr
  | 0x08 => .ok .isr
  | 0x09 => .ok .mc
  | 0x0A => .ok .imc
  | 0x0B => .ok .gfmul
  | _ => .error .unassignedOpcode

/-- `decode` of R114; an error is ILLEGAL, with the reason R115 names. -/
def decode (w : Word) : Except DecodeError Instr :=
  if rsvdField w ≠ 0 then .error .reservedField
  else if opField w = 0x04 then .ok (.ark (roundField w).toNat)
  else if roundField w ≠ 0 then .error .roundField
  else decodeOp (opField w).toNat

/-- The operation code of a command (R113). -/
def opcode : Instr → BitVec 8
  | .nop => 0x00
  | .keyexp => 0x01
  | .enc => 0x02
  | .dec => 0x03
  | .ark _ => 0x04
  | .sb => 0x05
  | .isb => 0x06
  | .sr => 0x07
  | .isr => 0x08
  | .mc => 0x09
  | .imc => 0x0A
  | .gfmul => 0x0B

/-- The ROUND field of a command: ARK's operand, "must be 0 for every other opcode" (R110). -/
def roundOperand : Instr → Nat
  | .ark round => round
  | .nop | .keyexp | .enc | .dec | .sb | .isb | .sr | .isr | .mc | .imc | .gfmul => 0

/-- "Its encoding is `OP` for the first form and `0x04 | (r << 8)` for `ARK r`" (R116). -/
def encode (i : Instr) : Word :=
  (opcode i).setWidth 32 ||| (BitVec.ofNat 32 (roundOperand i) <<< 8)

/-- A row of the opcode map (R113): a word selects it when its bits under `mask` are `pattern`. -/
structure OpcodeRow where
  mnemonic : String
  pattern : Word
  mask : Word
  deriving DecidableEq, Repr

/-- The opcode map of R113, in its order. -/
def opcodeTable : List OpcodeRow :=
  [ ⟨"NOP",    0x00000000, 0xFFFFFFFF⟩
  , ⟨"KEYEXP", 0x00000001, 0xFFFFFFFF⟩
  , ⟨"ENC",    0x00000002, 0xFFFFFFFF⟩
  , ⟨"DEC",    0x00000003, 0xFFFFFFFF⟩
  , ⟨"ARK",    0x00000004, 0xFFFFF0FF⟩
  , ⟨"SB",     0x00000005, 0xFFFFFFFF⟩
  , ⟨"ISB",    0x00000006, 0xFFFFFFFF⟩
  , ⟨"SR",     0x00000007, 0xFFFFFFFF⟩
  , ⟨"ISR",    0x00000008, 0xFFFFFFFF⟩
  , ⟨"MC",     0x00000009, 0xFFFFFFFF⟩
  , ⟨"IMC",    0x0000000A, 0xFFFFFFFF⟩
  , ⟨"GFMUL",  0x0000000B, 0xFFFFFFFF⟩ ]

/-- The mnemonic of a command (R113, R116). -/
def mnemonic : Instr → String
  | .nop => "NOP"
  | .keyexp => "KEYEXP"
  | .enc => "ENC"
  | .dec => "DEC"
  | .ark _ => "ARK"
  | .sb => "SB"
  | .isb => "ISB"
  | .sr => "SR"
  | .isr => "ISR"
  | .mc => "MC"
  | .imc => "IMC"
  | .gfmul => "GFMUL"

/-- The assembler text of a command: its mnemonic, and for ARK the round in decimal after a space (R116). -/
def assemblerText (i : Instr) : String :=
  match i with
  | .ark round => mnemonic i ++ " " ++ toString round
  | .nop | .keyexp | .enc | .dec | .sb | .isb | .sr | .isr | .mc | .imc | .gfmul => mnemonic i

/-- The command word the opcode table's numbering stands for: `nbits` bits of `w`, every bit above them 0. A command
is one 32-bit word on the bus (R111), so there is one word to lay out and no byte order to choose (R83). -/
def tableWord (nbits w : Nat) : Word := BitVec.ofNat 32 (w % 2 ^ nbits)

/-- The command the decoder reads from a table word; none where the word is ILLEGAL, or longer than the one command
length there is (R111). -/
def decodeTableWord (nbits w : Nat) : Option Instr :=
  if w % 2 ^ nbits < 2 ^ 32 then (decode (tableWord nbits w)).toOption else none

end Sys2Proof
end

