-- ==== Sys2Proof/Machine/Bytes.lean ====
section
/-! DEFINITION. Byte order inside words, and the views of the state and the key store that share storage
(spec/00_scope.md R9 to R11, spec/20_memory.md R81, R83). -/

namespace Sys2Proof.Machine

/-- `pack(b0, b1, b2, b3)`: most significant byte first (R9). -/
def pack (b0 b1 b2 b3 : Byte) : Word := b0 ++ b1 ++ b2 ++ b3

/-- `byte(w, k) = w[31-8k : 24-8k]` for k in 0..3 (R9). -/
def byteOf (w : Word) (k : Nat) : Byte := w.extractLsb' (24 - 8 * k) 8

/-- STATEc, column c of the state, row 0 in bits 31:24 (R38). -/
def columnWord (st : Block) (c : Fin 4) : Word :=
  pack st[4 * c.val] st[4 * c.val + 1] st[4 * c.val + 2] st[4 * c.val + 3]

/-- The state with STATEc written: `ST[4c + k] <- byte(v, k)` (R87). -/
def setColumn (st : Block) (c : Fin 4) (v : Word) : Block :=
  Vector.ofFn fun i => if i.val / 4 = c.val then byteOf v (i.val % 4) else st[i]

/-- A state written as 32 hex digits "lists `ST[0]` first" (R10). -/
def blockOfHex (digits : Nat) : Block := Vector.ofFn fun i => BitVec.ofNat 8 (digits >>> (8 * (15 - i.val)))

/-- `ekb(n) = byte(EK[n div 4], n mod 4)` for n in 0..239 (R11). Past the store there is no byte; every caller is
guarded by `roundInStore`, so the 0 here is read by no step. -/
def ekByte (ek : Vector Word 60) (n : Nat) : Byte := byteOf (ek[n / 4]?.getD 0) (n % 4)

/-- Round key r, the words EK[4r..4r+3] (R81), lies inside the 60-word store. -/
def roundInStore (r : Nat) : Bool := decide (4 * r + 3 < 60)

end Sys2Proof.Machine
end

