-- ==== Sys2Proof/Config.lean ====
section
/-! DEFINITION. What the spec leaves to the platform or leaves free: constants with no body, so that nothing can be
proved of their values (spec/00_scope.md R7, spec/93_implementation_defined.md). -/

namespace Sys2Proof.Config

/-- `draw()` (R12, R41, U1): the n-th unspecified 32-bit value that a busy read returns. A FREE VALUE (log 3). -/
opaque draw : Nat → Word

/-- AES_BASE counted in windows of 0x200 bytes: a parameter of the platform (R7, U7; log 4). -/
opaque aesBlock : Nat

/-- AES_BASE, "a multiple of 0x200" (R7). -/
def aesBase : Nat := 0x200 * aesBlock

/-- BUS_ERROR (R7, R84): how the bus reports an error response, a parameter of the platform (log 4). -/
opaque busError : Nat

end Sys2Proof.Config
end

