-- ==== Sys2Proof/Machine/State.lean ====
section
/-! DEFINITION. The state of the engine (spec/10_state.md R61), the host's moves that drive it, and the reasons a step
can stop. Plain data only. -/

namespace Sys2Proof.Machine

/-- The command sequencer's state (R50). -/
inductive Phase where
  /-- no command in progress -/
  | idle
  /-- a command has been accepted and its dispatch step is next -/
  | dispatch
  /-- the key schedule expander is running -/
  | keyexp
  /-- the round sequencer is running -/
  | cipher
  deriving DecidableEq, Repr

/-- `DIR` (R52): 0 = encrypt (forward), 1 = decrypt (inverse). -/
inductive Direction where
  | encrypt
  | decrypt
  deriving DecidableEq, Repr

/-- What a bus access does: a read, or a write of a value. -/
inductive AccessKind where
  | read
  | write (value : Word)
  deriving DecidableEq, Repr

/-- One bus access of the host: a byte address (R7 BUS_WIDTH: "byte addresses"), a width in bytes, and what it does. -/
structure Access where
  addr : Nat
  bytes : Nat
  kind : AccessKind
  deriving DecidableEq, Repr

/-- One move of the machine's surroundings, taken in list order: which agent of R14 acts next (R89; log 1). -/
inductive Move where
  /-- the host performs a bus access -/
  | access (a : Access)
  /-- the host's `wait`: read STATUS until BUSY is 0 (R118; log 6) -/
  | wait
  /-- the engine takes its next step -/
  | engine
  /-- the reset input (R340) -/
  | reset
  deriving DecidableEq, Repr

/-- What the host is answered. -/
inductive Reply where
  /-- a read returned this value -/
  | data (value : Word)
  /-- an admitted write was performed by the bus -/
  | written
  /-- the bus's error response, in the platform's form (R84, BUS_ERROR) -/
  | busError (form : Nat)
  /-- the engine does not decode the address and answers nothing (R84, U6) -/
  | notDecoded
  deriving DecidableEq, Repr

/-- The state of the engine (R61), and below it the model's own fields. -/
structure State where
  /-- CMD_LAST, the last command word accepted (R32) -/
  cmdLast : Word
  /-- STATUS.DONE (R33) -/
  done : Bool
  /-- STATUS.KEY_VALID (R33) -/
  keyValid : Bool
  /-- STATUS.OVR (R33) -/
  ovr : Bool
  /-- STATUS.ERR (R33, R300) -/
  err : Nibble
  /-- STATUS.EK_NR (R33) -/
  ekNr : Nibble
  /-- STATUS.EK_NK (R33) -/
  ekNk : Nibble
  /-- INTEN.DONE_IE (R35) -/
  doneIe : Bool
  /-- KEYLEN.KLEN, a length in bytes (R36) -/
  klen : Byte
  /-- KEY0..KEY7 (R37) -/
  key : Vector Word 8
  /-- ST[0..15], the cipher state (R10, R38) -/
  st : Block
  /-- GFOP.GF_A (R39) -/
  gfA : Byte
  /-- GFOP.GF_B (R39) -/
  gfB : Byte
  /-- GFRES.GF_P (R39) -/
  gfP : Byte
  /-- EK[0..59], the expanded key store (R11, R40) -/
  ek : Vector Word 60
  /-- PHASE (R50) -/
  phase : Phase
  /-- RC, the round counter (R51) -/
  rc : Nibble
  /-- DIR (R52) -/
  dir : Direction
  /-- KX_I, the next schedule word (R53) -/
  kxI : BitVec 6
  /-- KX_NK (R53) -/
  kxNk : Nibble
  /-- KX_NR (R53) -/
  kxNr : Nibble
  /-- MODEL'S OWN: what happens next, in order; when empty the engine moves (log 1) -/
  moves : List Move
  /-- MODEL'S OWN: what the host has been answered, newest first (log 2) -/
  replies : List Reply
  /-- MODEL'S OWN: how many free values have been drawn (log 3) -/
  draws : Nat
  deriving DecidableEq, Repr

/-- Why a step stops. Neither reason arises from a state that meets the model's invariant (Sys2Proof/Safety.lean);
both are SAFE (log 5). -/
inductive Fault where
  /-- Raised by ARK and by the round sequencer when the round key asked for lies past EK[59], or the round counter past
  the round count: R82 and R254 say this does not occur. Safe: the model stops where the rules give no effect. -/
  | roundKeyOutsideStore
  /-- Raised by the key schedule expander when a word it is to read or write lies outside KEY, EK or RCON, or KX_NK is
  0: R195 with the values R190 sets never does. Safe: the model stops where the rules give no effect. -/
  | expanderOutsideStore
  deriving DecidableEq, Repr

/-- Why a command has no meaning. -/
inductive Refusal where
  /-- Raised by no arm of exec: every command has its meaning. Safe. -/
  | notModelled (mnemonic : String)
  deriving DecidableEq, Repr

/-- The machine right after reset (R340): "reset sets every piece of state to 0 and PHASE to IDLE" (D29). The model's
own fields are empty (logs 1, 2, 3). -/
def State.reset : State where
  cmdLast := 0
  done := false
  keyValid := false
  ovr := false
  err := 0
  ekNr := 0
  ekNk := 0
  doneIe := false
  klen := 0
  key := Vector.replicate 8 0
  st := Vector.replicate 16 0
  gfA := 0
  gfB := 0
  gfP := 0
  ek := Vector.replicate 60 0
  phase := .idle
  rc := 0
  dir := .encrypt
  kxI := 0
  kxNk := 0
  kxNr := 0
  moves := []
  replies := []
  draws := 0

end Sys2Proof.Machine
end

