-- ==== Sys2Proof/Machine/Flags.lean ====
section
/-! DEFINITION. STATUS, the error codes and the interrupt output (spec/10_state.md R33 to R35, spec/60_exceptions.md R300,
R310). -/

namespace Sys2Proof.Machine

/-- The command errors (R300). -/
inductive CmdError where
  /-- ERR_ILLEGAL (R301) -/
  | illegal
  /-- ERR_KEYLEN (R302) -/
  | keylen
  /-- ERR_NOKEY (R303) -/
  | nokey
  /-- ERR_RANGE (R304) -/
  | range
  deriving DecidableEq, Repr

/-- The code STATUS.ERR takes (R300). -/
def errorCode : CmdError → Nibble
  | .illegal => 1
  | .keylen => 2
  | .nokey => 3
  | .range => 4

/-- `BUSY = (PHASE != IDLE)` (R33, R50). -/
def busy (s : State) : Bool := s.phase ≠ .idle

/-- `irq = STATUS.DONE and INTEN.DONE_IE` (R310). -/
def irq (s : State) : Bool := s.done && s.doneIe

/-- A 1-bit field as a bit. -/
def bit (b : Bool) : BitVec 1 := BitVec.ofBool b

/-- STATUS as the host reads it: `{8'b0, EK_NK, EK_NR, 4'b0, ERR, 4'b0, OVR, KEY_VALID, DONE, BUSY}` (R86). -/
def statusWord (s : State) : Word :=
  (0 : BitVec 8) ++ s.ekNk ++ s.ekNr ++ (0 : BitVec 4) ++ s.err ++ (0 : BitVec 4) ++ bit s.ovr ++ bit s.keyValid
    ++ bit s.done ++ bit (busy s)

/-- A write of v to STATUS: "clears `DONE` if `v[1]` = 1 and clears `OVR` if `v[3]` = 1" (R34). -/
def clearStatus (v : Word) (s : State) : State :=
  { s with done := s.done && !v.getLsbD 1, ovr := s.ovr && !v.getLsbD 3 }

end Sys2Proof.Machine
end

