-- ==== Sys2Proof/Machine/Operands.lean ====
section
/-! DEFINITION. The register window: which register an offset names, and what reading and writing it does
(spec/10_state.md R30, R31, spec/20_memory.md R86, R87). -/

namespace Sys2Proof.Machine

/-- The registers of the window (R30). -/
inductive Reg where
  | ctrl
  | status
  | inten
  | keylen
  | key (j : Fin 8)
  | state (c : Fin 4)
  | gfop
  | gfres
  | expkey (i : Fin 60)
  /-- 0x048..0x0FC and 0x1F0..0x1FC -/
  | reserved
  deriving DecidableEq, Repr

/-- The register at an admitted offset (R30). -/
def regAt (off : Nat) : Reg :=
  if off = 0x000 then .ctrl
  else if off = 0x004 then .status
  else if off = 0x008 then .inten
  else if off = 0x00C then .keylen
  else if h : 0x010 ≤ off ∧ off < 0x030 then .key ⟨(off - 0x010) / 4, by omega⟩
  else if h : 0x030 ≤ off ∧ off < 0x040 then .state ⟨(off - 0x030) / 4, by omega⟩
  else if off = 0x040 then .gfop
  else if off = 0x044 then .gfres
  else if h : 0x100 ≤ off ∧ off < 0x1F0 then .expkey ⟨(off - 0x100) / 4, by omega⟩
  else .reserved

/-- The registers whose read while busy is `draw()` (R41): offsets 0x030..0x03C, 0x044, 0x100..0x1EC (R86). -/
def drawnWhileBusy : Reg → Bool
  | .state _ => true
  | .gfres => true
  | .expkey _ => true
  | .ctrl | .status | .inten | .keylen | .key _ | .gfop | .reserved => false

/-- The registers a write reaches while busy: "`off` is 0x004 (`STATUS`) or 0x008 (`INTEN`)" (R88). -/
def writableWhileBusy : Reg → Bool
  | .status => true
  | .inten => true
  | .ctrl | .keylen | .key _ | .state _ | .gfop | .gfres | .expkey _ | .reserved => false

/-- The defined value of a register (R86). -/
def readReg (s : State) : Reg → Word
  | .ctrl => s.cmdLast
  | .status => statusWord s
  | .inten => (0 : BitVec 31) ++ bit s.doneIe
  | .keylen => (0 : BitVec 24) ++ s.klen
  | .key j => s.key[j]
  | .state c => columnWord s.st c
  | .gfop => (0 : BitVec 16) ++ s.gfB ++ s.gfA
  | .gfres => (0 : BitVec 24) ++ s.gfP
  | .expkey i => s.ek[i]
  | .reserved => 0

/-- Acceptance of a command word (R280). -/
def accept (v : Word) (s : State) : State :=
  { s with cmdLast := v, done := false, err := 0, phase := .dispatch }

/-- A write of v to a register while not busy (R87). -/
def writeReg (s : State) (v : Word) : Reg → State
  | .ctrl => accept v s
  | .status => clearStatus v s
  | .inten => { s with doneIe := v.getLsbD 0 }
  | .keylen => { s with klen := v.extractLsb' 0 8 }
  | .key j => { s with key := s.key.set j v }
  | .state c => { s with st := setColumn s.st c v }
  | .gfop => { s with gfA := v.extractLsb' 0 8, gfB := v.extractLsb' 8 8 }
  | .gfres => s
  | .expkey _ => s
  | .reserved => s

end Sys2Proof.Machine
end

