-- ==== Sys2Proof/Machine/Ops.lean ====
section
/-! DEFINITION. The shared operations: completion and taking an error (spec/44_control.md R284, spec/60_exceptions.md R309),
bus accesses (spec/20_memory.md R84 to R88), reset (spec/70_reset_and_hazards.md R340). -/

namespace Sys2Proof.Machine

/-- What every step of the model answers. -/
abbrev Result := Host.Outcome State Fault Refusal

/-- `finish(code)`: `ERR <- code; DONE <- 1; PHASE <- IDLE`, and "Completion changes no other state" (R284). -/
def finish (code : Nibble) (s : State) : State :=
  { s with err := code, done := true, phase := .idle }

/-- `complete()` is `finish(0)` (R284). -/
def complete (s : State) : Result := .next (finish 0 s)

/-- TAKING AN ERROR, `raise CmdError(code)` (R12, R284, R309): the code is saved in ERR, the word stands in CMD_LAST, and
the engine returns to IDLE. There is no vector, no mode and no return operation (R309, R312): the host goes on by clearing
DONE (`clearStatus`) or by writing the next command (`accept`). -/
def raiseError (e : CmdError) (s : State) : Result := .next (finish (errorCode e) s)

/-- The host's access is answered. -/
def answer (r : Reply) (s : State) : State := { s with replies := r :: s.replies }

/-- `MemRead` of a register: `draw()`, fresh for each read, where R41 says so, else the defined value (R86, U1). -/
def busRead (reg : Reg) (s : State) : State :=
  if busy s && drawnWhileBusy reg then
    answer (.data (Config.draw s.draws)) { s with draws := s.draws + 1 }
  else answer (.data (readReg s reg)) s

/-- `MemWrite` of a register: R87 while not busy; while busy STATUS and INTEN take it, and any other write "is dropped
(no register changes, no command is offered) and `OVR <- 1`" (R88). -/
def busWrite (reg : Reg) (v : Word) (s : State) : State :=
  if busy s && !writableWhileBusy reg then answer .written { s with ovr := true }
  else answer .written (writeReg s v reg)

/-- The offset of a bus address in the window of WINDOW_BYTES = 0x200 bytes, where the engine decodes it (R7, R30, R84). -/
def windowOffset (addr : Nat) : Option Nat :=
  if Config.aesBase ≤ addr ∧ addr < Config.aesBase + 0x200 then some (addr - Config.aesBase) else none

/-- "a 32-bit read or write at an offset that is a multiple of 4" (R84). -/
def admitted (off bytes : Nat) : Bool := decide (bytes = 4 ∧ off % 4 = 0)

/-- A bus access: not decoded outside the window (U6), the bus's error response with no state change where it is not
admitted (R84, U5), else the read or the write (R86 to R88). -/
def busAccess (a : Access) (s : State) : State :=
  match windowOffset a.addr with
  | none => answer .notDecoded s
  | some off =>
    if admitted off a.bytes then
      match a.kind with
      | .read => busRead (regAt off) s
      | .write v => busWrite (regAt off) v s
    else answer (.busError Config.busError) s

/-- The reset action (R340), in any state: every field of R61 at its reset value. What the host was answered and what it
does next are not the engine's and stay. -/
def resetAction (s : State) : State :=
  { State.reset with moves := s.moves, replies := s.replies, draws := s.draws }

end Sys2Proof.Machine
end

