-- ==== Sys2Proof/Machine/Control.lean ====
section
/-! DEFINITION. NOP (spec/44_control.md R286). -/

namespace Sys2Proof.Machine

/-- `NOP`: `complete()` in the dispatch step (R286). -/
def execNop (s : State) : Result := complete s

end Sys2Proof.Machine
end

