-- ==== Sys2Proof/Machine/Rom.lean ====
section
/-! DEFINITION. The seven constant ROMs (spec/10_state.md R60; contents spec/40_gf_and_tables.md R150 to R163). They are
no state: no command and no bus access reaches them. -/

namespace Sys2Proof.Machine

/-- A 256-entry byte ROM is written as the spec prints it: one row per high hex digit of the index, the 16 bytes of the
row as 32 hex digits, column 0 first. This reads the byte at index `x`. -/
def romByte (rows : List Nat) (x : Byte) : Byte :=
  BitVec.ofNat 8 (rows.getD (x.toNat / 16) 0 >>> (8 * (15 - x.toNat % 16)))

/-- ALOG (R151). -/
def alogRows : List Nat :=
  [ 0x0103050f113355ff1a2e7296a1f81335
  , 0x5fe13848d87395a4f702060a1e2266aa
  , 0xe5345ce43759eb266abed97090abe631
  , 0x53f5040c143c44cc4fd168b8d36eb2cd
  , 0x4cd467a9e03b4dd762a6f10818287888
  , 0x839eb9d06bbddc7f8198b3ce49db769a
  , 0xb5c457f9103050f00b1d2769bbd661a3
  , 0xfe192b7d8792adec2f7193aee92060a0
  , 0xfb163a4ed26db7c25de73256fa153f41
  , 0xc35ee23d47c940c05bed2c749cbfda75
  , 0x9fbad564acef2a7e829dbcdf7a8e8980
  , 0x9bb6c158e82365afea256fb1c843c554
  , 0xfc1f2163a5f407091b2d7799b0cb46ca
  , 0x45cf4ade798b8691a8e33e42c651f30e
  , 0x12365aee297b8d8c8f8a8594a7f20d17
  , 0x394bdd7c8497a2fd1c246cb4c752f601 ]

/-- LOG (R151); entry 0 is 0x00 and never read (R152). -/
def logRows : List Nat :=
  [ 0x0000190132021ac64bc71b6833eedf03
  , 0x6404e00e348d81ef4c7108c8f8691cc1
  , 0x7dc21db5f9b9276a4de4a6729ac90978
  , 0x652f8a05210fe12412f082453593da8e
  , 0x968fdbbd36d0ce94135cd2f140468338
  , 0x66ddfd30bf068b62b325e29822889110
  , 0x7e6e48c3a3b61e423a6b2854fa853dba
  , 0x2b790a159b9f5eca4ed4ace5f373a757
  , 0xaf58a850f4ead6744faee9d5e7e6ade8
  , 0x2cd7757aeb160bf559cb5fb09ca951a0
  , 0x7f0cf66f17c449ecd8431f2da4767bb7
  , 0xccbb3e5afb60b1863b52a16caa55299d
  , 0x97b2879061bedcfcbc95cfcd373f5bd1
  , 0x5339843c41a26d47142a9e5d56f2d3ab
  , 0x441192d923202e89b47cb8267799e3a5
  , 0x674aeddec531fe180d638c80c0f77007 ]

/-- SBOX (R156). -/
def sboxRows : List Nat :=
  [ 0x637c777bf26b6fc53001672bfed7ab76
  , 0xca82c97dfa5947f0add4a2af9ca472c0
  , 0xb7fd9326363ff7cc34a5e5f171d83115
  , 0x04c723c31896059a071280e2eb27b275
  , 0x09832c1a1b6e5aa0523bd6b329e32f84
  , 0x53d100ed20fcb15b6acbbe394a4c58cf
  , 0xd0efaafb434d338545f9027f503c9fa8
  , 0x51a3408f929d38f5bcb6da2110fff3d2
  , 0xcd0c13ec5f974417c4a77e3d645d1973
  , 0x60814fdc222a908846eeb814de5e0bdb
  , 0xe0323a0a4906245cc2d3ac629195e479
  , 0xe7c8376d8dd54ea96c56f4ea657aae08
  , 0xba78252e1ca6b4c6e8dd741f4bbd8b8a
  , 0x703eb5664803f60e613557b986c11d9e
  , 0xe1f8981169d98e949b1e87e9ce5528df
  , 0x8ca1890dbfe6426841992d0fb054bb16 ]

/-- INV_SBOX (R157). -/
def invSboxRows : List Nat :=
  [ 0x52096ad53036a538bf40a39e81f3d7fb
  , 0x7ce339829b2fff87348e4344c4dee9cb
  , 0x547b9432a6c2233dee4c950b42fac34e
  , 0x082ea16628d924b2765ba2496d8bd125
  , 0x72f8f66486689816d4a45ccc5d65b692
  , 0x6c704850fdedb9da5e154657a78d9d84
  , 0x90d8ab008cbcd30af7e45805b8b34506
  , 0xd02c1e8fca3f0f02c1afbd0301138a6b
  , 0x3a9111414f67dcea97f2cfcef0b4e673
  , 0x96ac7422e7ad3585e2f937e81c75df6e
  , 0x47f11a711d29c5896fb7620eaa18be1b
  , 0xfc563e4bc6d279209adbc0fe78cd5af4
  , 0x1fdda8338807c731b11210592780ec5f
  , 0x60517fa919b54a0d2de57a9f93c99cef
  , 0xa0e03b4dae2af5b0c8ebbb3c83539961
  , 0x172b047eba77d626e169146355210c7d ]

/-- `ALOG[x]` (R151). -/
def alog (x : Byte) : Byte := romByte alogRows x

/-- `LOG[x]` (R151). -/
def logOf (x : Byte) : Byte := romByte logRows x

/-- `SBOX[x]` (R156). -/
def sbox (x : Byte) : Byte := romByte sboxRows x

/-- `INV_SBOX[x]` (R157). -/
def invSbox (x : Byte) : Byte := romByte invSboxRows x

/-- `RCON[0..13]` (R160). -/
def rconTable : List Word :=
  [ 0x01000000, 0x02000000, 0x04000000, 0x08000000, 0x10000000, 0x20000000, 0x40000000
  , 0x80000000, 0x1B000000, 0x36000000, 0x6C000000, 0xD8000000, 0xAB000000, 0x4D000000 ]

/-- `RCON[j]`; none where the table has no entry j (R160: 14 entries). -/
def rcon (j : Nat) : Option Word := rconTable[j]?

/-- A 4x4 matrix of GF(2^8) coefficients, by rows. -/
abbrev Matrix44 := Vector (Vector Byte 4) 4

/-- `MIX` (R162). -/
def mix : Matrix44 :=
  #v[ #v[0x02, 0x03, 0x01, 0x01]
    , #v[0x01, 0x02, 0x03, 0x01]
    , #v[0x01, 0x01, 0x02, 0x03]
    , #v[0x03, 0x01, 0x01, 0x02] ]

/-- `INV_MIX` (R163). -/
def invMix : Matrix44 :=
  #v[ #v[0x0E, 0x0B, 0x0D, 0x09]
    , #v[0x09, 0x0E, 0x0B, 0x0D]
    , #v[0x0D, 0x09, 0x0E, 0x0B]
    , #v[0x0B, 0x0D, 0x09, 0x0E] ]

end Sys2Proof.Machine
end

