-- ==== Sys2Proof/Machine/KeySchedule.lean ====
section
/-! DEFINITION. The key schedule as a word recurrence (spec/41_key_schedule.md R180 to R187). A word the recurrence would
read outside KEY, the words before it or RCON does not exist: `none`. -/

namespace Sys2Proof.Machine

/-- "a legal length is 16, 24 or 32" (R36, R180). -/
def legalKlen (klen : Byte) : Bool := klen = 16 ∨ klen = 24 ∨ klen = 32

/-- `Nk = KLEN / 4` (R180). -/
def nkOf (klen : Byte) : Nat := klen.toNat / 4

/-- `Nr = Nk + 6` (R180). -/
def nrOf (nk : Nat) : Nat := nk + 6

/-- "the schedule has `4 × (Nr + 1)` words" (R180). -/
def schedWords (nr : Nat) : Nat := 4 * (nr + 1)

/-- `RotWord(w) = {w[23:0], w[31:24]}` (R181). -/
def rotWord (w : Word) : Word := w.extractLsb' 0 24 ++ w.extractLsb' 24 8

/-- `SubWord(w)`: the forward S-box on each of the four bytes (R182). -/
def subWord (w : Word) : Word :=
  pack (sbox (byteOf w 0)) (sbox (byteOf w 1)) (sbox (byteOf w 2)) (sbox (byteOf w 3))

/-- `next_word(i, Nk, w)` from the two words it reads, `prev = w[i-1]` and `back = w[i-Nk]` (R184, R185). -/
def nextWord (i nk : Nat) (prev back : Word) : Option Word :=
  if i % nk = 0 then (rcon (i / nk - 1)).map fun rc => subWord (rotWord prev) ^^^ rc ^^^ back
  else if nk = 8 ∧ i % 4 = 0 then some (subWord prev ^^^ back)
  else some (prev ^^^ back)

/-- Word i of the schedule (R183 for i < Nk, R184 above), `read` giving the words before it. -/
def scheduleWord (key : Vector Word 8) (nk i : Nat) (read : Nat → Option Word) : Option Word :=
  if i < nk then key[i]?
  else if nk = 0 then none
  else
    match read (i - 1), read (i - nk) with
    | some prev, some back => nextWord i nk prev back
    | _, _ => none

/-- The first n words of the schedule of a key of Nk words (R185). -/
def scheduleWords (key : Vector Word 8) (nk : Nat) : Nat → Option (List Word)
  | 0 => some []
  | n + 1 =>
    match scheduleWords key nk n with
    | none => none
    | some ws => (scheduleWord key nk n fun j => ws[j]?).map fun w => ws ++ [w]

/-- `KeyExpansion(key, Nk)`, the list `w[0 .. 4(Nr+1) - 1]` (R185). -/
def keyExpansion (key : Vector Word 8) (nk : Nat) : Option (List Word) :=
  scheduleWords key nk (schedWords (nrOf nk))

/-- What EK holds after a successful KEYEXP: the schedule, then 0 up to word 59 (R40, R196). -/
def expandedStore (key : Vector Word 8) (nk : Nat) : Option (List Word) :=
  (keyExpansion key nk).map fun ws => ws ++ List.replicate (60 - schedWords (nrOf nk)) 0

end Sys2Proof.Machine
end

