-- ==== Sys2Proof/Machine/Expander.lean ====
section
/-! DEFINITION. KEYEXP and the key schedule expander (spec/41_key_schedule.md R190, R195). -/

namespace Sys2Proof.Machine

/-- `KEYEXP` in the dispatch step (R190): the old schedule is invalid from here on; a bad KLEN is ERR_KEYLEN with EK
unchanged, else the expander starts. -/
def execKeyexp (s : State) : Result :=
  let s' := { s with keyValid := false, ekNk := 0, ekNr := 0 }
  if legalKlen s.klen then
    .next { s' with
      kxNk := BitVec.ofNat 4 (nkOf s.klen)
      kxNr := BitVec.ofNat 4 (nrOf (nkOf s.klen))
      kxI := 0
      phase := .keyexp }
  else raiseError .keylen s'

/-- The word the expander writes at KX_I (R195): LOAD and GEN are the schedule's word, CLEAR is 0. -/
def expanderWord (s : State) : Option Word :=
  if s.kxI.toNat < s.kxNk.toNat ∨ s.kxI.toNat < schedWords s.kxNr.toNat then
    scheduleWord s.key s.kxNk.toNat s.kxI.toNat fun j => s.ek[j]?
  else some 0

/-- The expander has written all it is to write: the last branch of R195. -/
def expanderDone (s : State) : Bool :=
  decide (s.kxNk.toNat ≤ s.kxI.toNat ∧ schedWords s.kxNr.toNat ≤ s.kxI.toNat ∧ 60 ≤ s.kxI.toNat)

/-- `step_keyexp()` (R195): one word, or the completion. -/
def stepKeyexp (s : State) : Result :=
  if expanderDone s then complete { s with ekNk := s.kxNk, ekNr := s.kxNr, keyValid := true }
  else
    match expanderWord s with
    | none => .fault .expanderOutsideStore
    | some w =>
      if h : s.kxI.toNat < 60 then .next { s with ek := s.ek.set s.kxI.toNat w h, kxI := s.kxI + 1 }
      else .fault .expanderOutsideStore

end Sys2Proof.Machine
end

