-- ==== Sys2Proof/Machine/Field.lean ====
section
/-! DEFINITION. Arithmetic in GF(2^8) (spec/40_gf_and_tables.md R140 to R155). -/

namespace Sys2Proof.Machine

/-- Multiplication by x: `xtime(a) = (a << 1)[7:0] ⊕ (a[7] ? 0x1B : 0x00)` (R141). -/
def xtime (a : Byte) : Byte := (a <<< 1) ^^^ (if a.getLsbD 7 then 0x1B else 0x00)

/-- One turn of the loop of R142 for bit k of b, on the pair (p, a). -/
def gfmulTurn (b : Byte) (pa : Byte × Byte) (k : Nat) : Byte × Byte :=
  (if b.getLsbD k then pa.1 ^^^ pa.2 else pa.1, xtime pa.2)

/-- `gfmul(a, b)`: the shift-and-add loop over the bits 0..7 of b (R142). -/
def gfmul (a b : Byte) : Byte := ((List.range 8).foldl (gfmulTurn b) (0x00, a)).1

/-- The document's log/antilog algorithm (R144); R145 says it equals `gfmul`. -/
def gfmulLog (a b : Byte) : Byte :=
  if a = 0 ∨ b = 0 then 0x00
  else if a = 1 then b
  else if b = 1 then a
  else
    let s := (logOf a).toNat + (logOf b).toNat
    alog (BitVec.ofNat 8 (if s > 255 then s - 255 else s))

/-- `0x03^k`, the k-th power of the generator computed with gfmul (R150). -/
def generatorPower : Nat → Byte
  | 0 => 0x01
  | k + 1 => gfmul (generatorPower k) 0x03

/-- `ginv(a) = ALOG[(255 - LOG[a]) mod 255]` for a ≠ 0, and 0 for 0 (R147). It only defines the S-box; no command
computes it. -/
def ginv (a : Byte) : Byte :=
  if a = 0 then 0x00 else alog (BitVec.ofNat 8 ((255 - (logOf a).toNat) % 255))

/-- `affine(b) = b ⊕ rotl8(b,1) ⊕ rotl8(b,2) ⊕ rotl8(b,3) ⊕ rotl8(b,4) ⊕ 0x63` (R155). -/
def affine (b : Byte) : Byte :=
  b ^^^ b.rotateLeft 1 ^^^ b.rotateLeft 2 ^^^ b.rotateLeft 3 ^^^ b.rotateLeft 4 ^^^ 0x63

end Sys2Proof.Machine
end

