-- ==== Sys2Proof/Machine/Multiplier.lean ====
section
/-! DEFINITION. GFMUL (spec/40_gf_and_tables.md R170). -/

namespace Sys2Proof.Machine

/-- `GFMUL`: `GF_P <- gfmul(GF_A, GF_B); complete()` (R170). -/
def execGfmul (s : State) : Result := complete { s with gfP := gfmul s.gfA s.gfB }

end Sys2Proof.Machine
end

