-- ==== Sys2Proof/Machine/Transforms.lean ====
section
/-! DEFINITION. The round transforms as functions of the 16 state bytes (spec/42_round_transforms.md R210 to R217). Each
output byte is a function of the input state only (R210), so no temporary buffer is state (R54). -/

namespace Sys2Proof.Machine

/-- `subBytes(s)[i] = SBOX[s[i]]` (R211). -/
def subBytes (s : Block) : Block := Vector.ofFn fun i => sbox s[i]

/-- `invSubBytes(s)[i] = INV_SBOX[s[i]]` (R212). -/
def invSubBytes (s : Block) : Block := Vector.ofFn fun i => invSbox s[i]

/-- `shiftRows(s)[r + 4c] = s[r + 4((c + r) mod 4)]` (R213), with r = i mod 4 and c = i div 4 (R10). -/
def shiftRows (s : Block) : Block :=
  Vector.ofFn fun i => s[i.val % 4 + 4 * ((i.val / 4 + i.val % 4) % 4)]

/-- `invShiftRows(s)[r + 4c] = s[r + 4((c - r) mod 4)]`, "mod gives 0..3" (R214). -/
def invShiftRows (s : Block) : Block :=
  Vector.ofFn fun i => s[i.val % 4 + 4 * ((i.val / 4 + 4 - i.val % 4) % 4)]

/-- Output byte r of a column (a0, a1, a2, a3): the XOR of four products with row r of the matrix (R215). -/
def mixByte (m : Matrix44) (r : Fin 4) (a0 a1 a2 a3 : Byte) : Byte :=
  gfmul m[r][0] a0 ^^^ gfmul m[r][1] a1 ^^^ gfmul m[r][2] a2 ^^^ gfmul m[r][3] a3

/-- Every column replaced by its product with the matrix (R215). -/
def mixWith (m : Matrix44) (s : Block) : Block :=
  Vector.ofFn fun i =>
    mixByte m ⟨i.val % 4, by omega⟩ s[4 * (i.val / 4)] s[4 * (i.val / 4) + 1] s[4 * (i.val / 4) + 2]
      s[4 * (i.val / 4) + 3]

/-- `mixColumns` (R215). -/
def mixColumns (s : Block) : Block := mixWith mix s

/-- `invMixColumns` (R216). -/
def invMixColumns (s : Block) : Block := mixWith invMix s

/-- `addRoundKey(s, r)[n] = s[n] ⊕ ekb(16r + n)` (R217). -/
def addRoundKey (ek : Vector Word 60) (s : Block) (r : Nat) : Block :=
  Vector.ofFn fun n => s[n] ^^^ ekByte ek (16 * r + n.val)

end Sys2Proof.Machine
end

