-- ==== Sys2Proof/Machine/Rounds.lean ====
section
/-! DEFINITION. The round multiplexer and the block cipher as functions (spec/43_cipher_driver.md R252, R253, R255). -/

namespace Sys2Proof.Machine

/-- `kidx(DIR, RC) = RC` when DIR = 0 and `NR - RC` when DIR = 1 (R252). -/
def roundKeyIndex (dir : Direction) (rc nr : Nat) : Nat :=
  match dir with
  | .encrypt => rc
  | .decrypt => nr - rc

/-- `round_fn(DIR, RC, NR, ST)`, the table of R253: initial for RC = 0, middle for RC = 1..NR-1, final for RC = NR. -/
def roundFn (dir : Direction) (rc nr : Nat) (ek : Vector Word 60) (s : Block) : Block :=
  match dir with
  | .encrypt =>
    if rc = 0 then addRoundKey ek s (roundKeyIndex .encrypt rc nr)
    else if rc < nr then addRoundKey ek (mixColumns (shiftRows (subBytes s))) (roundKeyIndex .encrypt rc nr)
    else addRoundKey ek (shiftRows (subBytes s)) (roundKeyIndex .encrypt rc nr)
  | .decrypt =>
    if rc = 0 then addRoundKey ek s (roundKeyIndex .decrypt rc nr)
    else if rc < nr then invMixColumns (addRoundKey ek (invSubBytes (invShiftRows s)) (roundKeyIndex .decrypt rc nr))
    else addRoundKey ek (invSubBytes (invShiftRows s)) (roundKeyIndex .decrypt rc nr)

/-- The steps RC = 0, 1, ..., n - 1 of the sequence, in order (R255). -/
def rounds (dir : Direction) (nr : Nat) (ek : Vector Word 60) : Nat → Block → Block
  | 0, s => s
  | n + 1, s => roundFn dir n nr ek (rounds dir nr ek n s)

/-- `Cipher(s, EK, NR)`: the DIR = 0 column for RC = 0..NR (R255). -/
def cipher (ek : Vector Word 60) (nr : Nat) (s : Block) : Block := rounds .encrypt nr ek (nr + 1) s

/-- `InvCipher(s, EK, NR)`: "the same with `DIR = 1`" (R255). -/
def invCipher (ek : Vector Word 60) (nr : Nat) (s : Block) : Block := rounds .decrypt nr ek (nr + 1) s

end Sys2Proof.Machine
end

