-- ==== Sys2Proof/Machine/Sequencer.lean ====
section
/-! DEFINITION. ENC, DEC and the round sequencer (spec/43_cipher_driver.md R250 to R265). -/

namespace Sys2Proof.Machine

/-- The dispatch step of ENC and DEC (R260, R265): ERR_NOKEY with no schedule, else the sequencer starts. The round count
is EK_NR itself (R251), so nothing latches it. -/
def startCipher (dir : Direction) (s : State) : Result :=
  if s.keyValid = false then raiseError .nokey s
  else .next { s with dir := dir, rc := 0, phase := .cipher }

/-- `ENC` (R260). -/
def execEnc (s : State) : Result := startCipher .encrypt s

/-- `DEC` (R265). -/
def execDec (s : State) : Result := startCipher .decrypt s

/-- `step_cipher()` (R254): one round; after round NR the command completes, else RC counts up. RC is never above NR and NR
never above 14 (R254); past that R253 has no row and EK no key (log 5). -/
def stepCipher (s : State) : Result :=
  if s.rc.toNat ≤ s.ekNr.toNat && roundInStore s.ekNr.toNat then
    let s' := { s with st := roundFn s.dir s.rc.toNat s.ekNr.toNat s.ek s.st }
    if s.rc = s.ekNr then complete s' else .next { s' with rc := s.rc + 1 }
  else .fault .roundKeyOutsideStore

end Sys2Proof.Machine
end

