-- ==== Sys2Proof/Machine/TransformUnit.lean ====
section
/-! DEFINITION. The one-step commands on the state (spec/42_round_transforms.md R220 to R240). -/

namespace Sys2Proof.Machine

/-- A transform command: `ST <- f(ST); complete()`. -/
def transformState (f : Block → Block) (s : State) : Result := complete { s with st := f s.st }

/-- `SB` (R220). -/
def execSb (s : State) : Result := transformState subBytes s

/-- `ISB` (R222). -/
def execIsb (s : State) : Result := transformState invSubBytes s

/-- `SR` (R226). -/
def execSr (s : State) : Result := transformState shiftRows s

/-- `ISR` (R228). -/
def execIsr (s : State) : Result := transformState invShiftRows s

/-- `MC` (R232). -/
def execMc (s : State) : Result := transformState mixColumns s

/-- `IMC` (R234). -/
def execImc (s : State) : Result := transformState invMixColumns s

/-- `ARK r` (R240): ERR_NOKEY first, then ERR_RANGE (R307), else `ST <- addRoundKey(ST, r)`. A round that is at most EK_NR
and yet past the store needs EK_NR = 15, which no run gives (R82; log 5). -/
def execArk (round : Nat) (s : State) : Result :=
  if s.keyValid = false then raiseError .nokey s
  else if s.ekNr.toNat < round then raiseError .range s
  else if roundInStore round then transformState (fun st => addRoundKey s.ek st round) s
  else .fault .roundKeyOutsideStore

end Sys2Proof.Machine
end

