-- ==== Sys2Proof/Machine/Engine.lean ====
section
/-! DEFINITION. The engine's step, and whose move is next (spec/44_control.md R282, R283, spec/20_memory.md R89). -/

namespace Sys2Proof.Machine

/-- `step_dispatch()` (R282): decode CMD_LAST and run the command's pseudocode; an ILLEGAL word raises ERR_ILLEGAL with no
other effect (R287). -/
def stepDispatch (s : State) : Result :=
  match decode s.cmdLast with
  | .ok i => exec i s
  | .error _ => raiseError .illegal s

/-- The engine's next step (R283); "when `PHASE = IDLE` it does nothing" (R325). -/
def engineStep (s : State) : Result :=
  match s.phase with
  | .idle => .next s
  | .dispatch => stepDispatch s
  | .keyexp => stepKeyexp s
  | .cipher => stepCipher s

/-- One turn of the host's `wait` (R118): a read of STATUS; if it gives BUSY = 1 the engine moves and the host reads
again (log 6). -/
def waitTurn (s : State) : State :=
  let s' := busRead .status s
  if busy s then { s' with moves := .engine :: .wait :: s'.moves } else s'

/-- The next move: the first of the list, and the engine's when the list is empty (R89; log 1). -/
def nextMove (s : State) : Result :=
  match s.moves with
  | [] => engineStep s
  | .engine :: ms => engineStep { s with moves := ms }
  | .access a :: ms => .next (busAccess a { s with moves := ms })
  | .wait :: ms => .next (waitTurn { s with moves := ms })
  | .reset :: ms => .next (resetAction { s with moves := ms })

end Sys2Proof.Machine
end

