-- ==== Sys2Proof/Machine/Step.lean ====
section
/-! DEFINITION. The step, and how a command word is placed so that the next step runs it. -/

namespace Sys2Proof.Machine

/-- One step of the machine: the next move (R89). -/
def step (s : State) : Host.Outcome State Fault Refusal := nextMove s

/-- The engine has no program counter and fetches nothing (R55): a command word comes to it by a write to CTRL. So the word
is accepted (R280) and the engine moves next: the very next step is its dispatch step (log 10). -/
def State.withFetchWord (s : State) (nbits w : Nat) : State :=
  { accept (tableWord nbits w) s with moves := .engine :: s.moves }

end Sys2Proof.Machine
end

