-- ==== Sys2Proof/Machine/Atomic.lean ====
section
/-! DEFINITION. The atomic view of a command (spec/44_control.md R285): what the host finds once the command has completed,
as one function of the state at acceptance. The machine does not use it; statements compare the machine with it. -/

namespace Sys2Proof.Machine

/-- The result registers of a command (R112): what a command may change of the data and of STATUS. -/
structure CommandResult where
  st : Block
  ek : Option (List Word)
  gfP : Byte
  keyValid : Bool
  ekNk : Nibble
  ekNr : Nibble
  err : Nibble
  deriving DecidableEq, Repr

/-- The result registers as a state holds them. -/
def resultOf (s : State) : CommandResult :=
  { st := s.st, ek := some s.ek.toList, gfP := s.gfP, keyValid := s.keyValid, ekNk := s.ekNk, ekNr := s.ekNr,
    err := s.err }

/-- A command that ends with an error and changes no result register. -/
def failedResult (e : CmdError) (s : State) : CommandResult := { resultOf s with err := errorCode e }

/-- A command that replaces the state block. -/
def blockResult (st : Block) (s : State) : CommandResult := { resultOf s with st := st, err := 0 }

/-- The atomic view of KEYEXP (R190). -/
def keyexpResult (s : State) : CommandResult :=
  if legalKlen s.klen then
    { resultOf s with
      ek := expandedStore s.key (nkOf s.klen)
      keyValid := true
      ekNk := BitVec.ofNat 4 (nkOf s.klen)
      ekNr := BitVec.ofNat 4 (nrOf (nkOf s.klen))
      err := 0 }
  else { resultOf s with keyValid := false, ekNk := 0, ekNr := 0, err := errorCode .keylen }

/-- The atomic view of ENC, DEC and, with its range check, ARK: nothing without a schedule (R240, R260, R265). -/
def keyedResult (f : Block → Block) (s : State) : CommandResult :=
  if s.keyValid = false then failedResult .nokey s else blockResult (f s.st) s

/-- The atomic view of ARK r (R240). -/
def arkResult (round : Nat) (s : State) : CommandResult :=
  if s.keyValid = true ∧ s.ekNr.toNat < round then failedResult .range s
  else keyedResult (fun st => addRoundKey s.ek st round) s

/-- The atomic view of the command word in CMD_LAST (R285). -/
def atomicResult (s : State) : CommandResult :=
  match decode s.cmdLast with
  | .error _ => failedResult .illegal s
  | .ok .nop => blockResult s.st s
  | .ok .keyexp => keyexpResult s
  | .ok .enc => keyedResult (cipher s.ek s.ekNr.toNat) s
  | .ok .dec => keyedResult (invCipher s.ek s.ekNr.toNat) s
  | .ok (.ark round) => arkResult round s
  | .ok .sb => blockResult (subBytes s.st) s
  | .ok .isb => blockResult (invSubBytes s.st) s
  | .ok .sr => blockResult (shiftRows s.st) s
  | .ok .isr => blockResult (invShiftRows s.st) s
  | .ok .mc => blockResult (mixColumns s.st) s
  | .ok .imc => blockResult (invMixColumns s.st) s
  | .ok .gfmul => { resultOf s with gfP := gfmul s.gfA s.gfB, err := 0 }

/-- The engine steps a command in CMD_LAST takes from its dispatch step to its completion (R283, R360). -/
def stepsFromDispatch (s : State) : Nat :=
  match decode s.cmdLast with
  | .ok .keyexp => if legalKlen s.klen then 62 else 1
  | .ok .enc | .ok .dec => if s.keyValid then 1 + s.ekNr.toNat + 1 else 1
  | .ok .nop | .ok (.ark _) | .ok .sb | .ok .isb | .ok .sr | .ok .isr | .ok .mc | .ok .imc | .ok .gfmul | .error _ => 1

/-- The engine steps left until the command in progress completes (R283, R360). -/
def stepsLeft (s : State) : Nat :=
  match s.phase with
  | .idle => 0
  | .dispatch => stepsFromDispatch s
  | .keyexp => 61 - s.kxI.toNat
  | .cipher => s.ekNr.toNat - s.rc.toNat + 1

end Sys2Proof.Machine
end

