-- ==== Sys2Proof/Machine/HostProgram.lean ====
section
/-! DEFINITION. The host program notation as lists of moves (spec/30_encoding.md R117, R118). -/

namespace Sys2Proof.Machine.HostProgram

/-- `wr OFF, V`: `MemWrite(OFF, 4, V)` (R117). -/
def wr (off : Nat) (v : Word) : Move := .access ⟨Config.aesBase + off, 4, .write v⟩

/-- `rd OFF`: `MemRead(OFF, 4)` (R117). -/
def rd (off : Nat) : Move := .access ⟨Config.aesBase + off, 4, .read⟩

/-- `cmd M`: `wr CTRL, <encoding of M>` (R118). -/
def cmd (i : Instr) : Move := wr 0x000 (encode i)

/-- `wait` (R118). -/
def wait : Move := .wait

/-- `clrst`: `wr STATUS, 0x0000000A` (R118). -/
def clrst : Move := wr 0x004 0x0000000A

/-- `pack(K[4j..4j+3])` of a list of bytes. -/
def wordOfBytes (bytes : List Byte) (j : Nat) : Word :=
  pack (bytes.getD (4 * j) 0) (bytes.getD (4 * j + 1) 0) (bytes.getD (4 * j + 2) 0) (bytes.getD (4 * j + 3) 0)

/-- `ldkey K`, for a key of 16, 24 or 32 bytes (R118). -/
def ldkey (key : List Byte) : List Move :=
  wr 0x00C (BitVec.ofNat 32 key.length) ::
    (List.range (key.length / 4)).map fun j => wr (0x010 + 4 * j) (wordOfBytes key j)

/-- `ldst S`: `wr STATEc, pack(S[4c..4c+3])` for c = 0..3 (R118). -/
def ldst (s : Block) : List Move := (List.finRange 4).map fun c => wr (0x030 + 4 * c.val) (columnWord s c)

/-- `rdst`: `rd STATEc` for c = 0..3 (R118). -/
def rdst : List Move := (List.range 4).map fun c => rd (0x030 + 4 * c)

end Sys2Proof.Machine.HostProgram
end

