-- ==== Sys2Proof/Safety.lean ====
section
/-! DEFINITION. What a good state is, what the host cannot touch while a command runs, and the words the statements use. -/

namespace Sys2Proof.Machine

/-- "`EK_NK` is in {4, 6, 8}" (R33). -/
def legalNk (nk : Nibble) : Prop := nk = 4 ∨ nk = 6 ∨ nk = 8

/-- The invariant of the engine, each part a rule of the spec. -/
structure Inv (s : State) : Prop where
  /-- with KEY_VALID = 0, EK_NR = 0 and EK_NK = 0 (R33) -/
  noSchedule : s.keyValid = false → s.ekNr = 0 ∧ s.ekNk = 0
  /-- with KEY_VALID = 1, EK_NK is legal and EK_NR = EK_NK + 6 (R33) -/
  schedule : s.keyValid = true → legalNk s.ekNk ∧ s.ekNr = s.ekNk + 6
  /-- a valid schedule is followed by zeros (R40) -/
  tail : s.keyValid = true → ∀ i (h : i < 60), schedWords s.ekNr.toNat ≤ i → s.ek[i] = 0
  /-- ERR codes 5 to 15 are never written (R305) -/
  codes : s.err.toNat ≤ 4
  /-- while a command runs DONE = 0 and ERR = 0 (R281) -/
  quiet : busy s = true → s.done = false ∧ s.err = 0
  /-- while the expander runs the schedule is not valid and the counters are in range (R190, R195) -/
  expander : s.phase = .keyexp → s.keyValid = false ∧ legalNk s.kxNk ∧ s.kxNr = s.kxNk + 6 ∧ s.kxI.toNat ≤ 60
  /-- the expander has written 0 to the words past the schedule that it has reached (R195 CLEAR) -/
  cleared : s.phase = .keyexp → ∀ i (h : i < 60), i < s.kxI.toNat → schedWords s.kxNr.toNat ≤ i → s.ek[i] = 0
  /-- while the sequencer runs there is a schedule and RC is at most NR (R254, R260) -/
  sequencer : s.phase = .cipher → s.keyValid = true ∧ s.rc.toNat ≤ s.ekNr.toNat

/-- What EK holds: a valid schedule is the expansion of some key of EK_NK words (R33 KEY_VALID, R196), and a running
expander has so far written the words of the expansion of KEY (R195). -/
structure ScheduleSound (s : State) : Prop where
  valid : s.keyValid = true → ∃ key, expandedStore key s.ekNk.toNat = some s.ek.toList
  partway : s.phase = .keyexp →
    ∃ ws, expandedStore s.key s.kxNk.toNat = some ws ∧ ∀ i, i < s.kxI.toNat → s.ek[i]? = ws[i]?

/-- The engine's own fields: all of R61 but DONE, OVR, ERR and DONE_IE, which the host reaches while busy (R88). -/
structure EngineView where
  cmdLast : Word
  keyValid : Bool
  ekNr : Nibble
  ekNk : Nibble
  klen : Byte
  key : Vector Word 8
  st : Block
  gfA : Byte
  gfB : Byte
  gfP : Byte
  ek : Vector Word 60
  phase : Phase
  rc : Nibble
  dir : Direction
  kxI : BitVec 6
  kxNk : Nibble
  kxNr : Nibble
  deriving DecidableEq, Repr

/-- The engine's own fields of a state. -/
def engineView (s : State) : EngineView :=
  { cmdLast := s.cmdLast, keyValid := s.keyValid, ekNr := s.ekNr, ekNk := s.ekNk, klen := s.klen, key := s.key,
    st := s.st, gfA := s.gfA, gfB := s.gfB, gfP := s.gfP, ek := s.ek, phase := s.phase, rc := s.rc, dir := s.dir,
    kxI := s.kxI, kxNk := s.kxNk, kxNr := s.kxNr }

/-- The step in which the move m comes first. -/
def stepWith (m : Move) (s : State) : Result := step { s with moves := m :: s.moves }

/-- The read of `off` answers w and changes nothing else. -/
def reads (off : Nat) (w : Word) (s : State) : Prop :=
  stepWith (HostProgram.rd off) s = .next { s with replies := .data w :: s.replies }

/-- The write of v at `off`, from s, leaves t, but for the one answer that the model's own record gets (log 2). -/
def writes (off : Nat) (v : Word) (s t : State) : Prop :=
  ∃ r : Reply, stepWith (HostProgram.wr off v) s = .next { t with replies := r :: s.replies }

/-- The engine moves next: it is its turn in the list, or the list is empty. -/
def enginesTurn (s : State) : Prop := s.moves = [] ∨ ∃ ms, s.moves = .engine :: ms

/-- The move is an admitted write of v to the register at `off`. -/
def isWrite (m : Move) (off : Nat) (v : Word) : Prop :=
  ∃ a, m = .access a ∧ windowOffset a.addr = some off ∧ a.bytes = 4 ∧ off % 4 = 0 ∧ a.kind = .write v

/-- The move is an access of the host's (a bus access or a turn of its `wait`). -/
def isHosts (m : Move) : Prop := m = .wait ∨ ∃ a, m = .access a

/-- k steps of the machine (Host.Core.run). -/
def run (k : Nat) (s : State) : Result := Sys2Proof.core.run k s

end Sys2Proof.Machine
end

