-- ==== Sys2Proof/Certificates/Slice0/Obligations.lean ====
section
/-! DEFINITION. The statements about the engine, from the numbered rules of spec/. `stepWith m s` is the step in which the
move m comes first; `run k s` is k steps; `reads` and `writes` are one access of the host's; `exec i` is the dispatch
step of command i (Sys2Proof/Safety.lean). The fields moves, replies and draws of State are the model's own (logs 1, 2, 3);
every other field is of R61. -/

open Sys2Proof Sys2Proof.Machine Sys2Proof.Machine.HostProgram

/-! ## Encoding -/

/-- Words written out from R110, R113, R116 decode to the commands they stand for, and the corner words of R287 to none. -/
def Obligations.TableWordsDecode : Prop :=
  decode 0b00000000000000000000000000000000#32 = .ok .nop ∧
  decode 0b00000000000000000000000000000001#32 = .ok .keyexp ∧
  decode 0b00000000000000000000000000000010#32 = .ok .enc ∧
  decode 0b00000000000000000000000000000011#32 = .ok .dec ∧
  decode 0b00000000000000000000101000000100#32 = .ok (.ark 10) ∧
  decode 0b00000000000000000000000000000101#32 = .ok .sb ∧
  decode 0b00000000000000000000000000000110#32 = .ok .isb ∧
  decode 0b00000000000000000000000000000111#32 = .ok .sr ∧
  decode 0b00000000000000000000000000001000#32 = .ok .isr ∧
  decode 0b00000000000000000000000000001001#32 = .ok .mc ∧
  decode 0b00000000000000000000000000001010#32 = .ok .imc ∧
  decode 0b00000000000000000000000000001011#32 = .ok .gfmul ∧
  decode 0x0000000C#32 = .error .unassignedOpcode ∧
  decode 0x000000FF#32 = .error .unassignedOpcode ∧
  decode 0x00001000#32 = .error .reservedField ∧
  decode 0x80000002#32 = .error .reservedField ∧
  decode 0x00000102#32 = .error .roundField ∧
  decode 0x00000F04#32 = .ok (.ark 15)

/-- Decoding the encoding of a well-formed command gives the command back, ARK with every round 0..15 (R113, R114, R116). -/
def Obligations.DecodeOfEncodeIsTheCommand : Prop :=
  ∀ i : Instr, i.wellFormed = true → decode (encode i) = .ok i

/-- A word that decodes is the encoding of the well-formed command it decodes to: every command has one word (R111). -/
def Obligations.EncodeOfDecodeIsTheWord : Prop :=
  ∀ (w : Word) (i : Instr), decode w = .ok i → i.wellFormed = true ∧ encode i = w

/-- R113: "A word selects a row when (word & mask) == match": the rows, and that decoding is the selection of a row. -/
def Obligations.DecodeSelectsTheTableRow : Prop :=
  opcodeTable =
    [ ⟨"NOP", 0, 0xFFFFFFFF⟩, ⟨"KEYEXP", 1, 0xFFFFFFFF⟩, ⟨"ENC", 2, 0xFFFFFFFF⟩, ⟨"DEC", 3, 0xFFFFFFFF⟩
    , ⟨"ARK", 4, 0xFFFFF0FF⟩, ⟨"SB", 5, 0xFFFFFFFF⟩, ⟨"ISB", 6, 0xFFFFFFFF⟩, ⟨"SR", 7, 0xFFFFFFFF⟩
    , ⟨"ISR", 8, 0xFFFFFFFF⟩, ⟨"MC", 9, 0xFFFFFFFF⟩, ⟨"IMC", 10, 0xFFFFFFFF⟩, ⟨"GFMUL", 11, 0xFFFFFFFF⟩ ] ∧
  ∀ (w : Word) (row : OpcodeRow), row ∈ opcodeTable →
    (w &&& row.mask = row.pattern ↔ ∃ i, decode w = .ok i ∧ mnemonic i = row.mnemonic)

/-- The decoder of R114, branch by branch, in the arithmetic of the word: bits 31:12, then 7:0, then 11:8. -/
def Obligations.DecodeFollowsTheFields : Prop :=
  ∀ w : Word,
    (w >>> 12 ≠ 0 → ∃ e, decode w = .error e) ∧
    (w >>> 12 = 0 → w &&& 0xFF = 0x04 → decode w = .ok (.ark (w.toNat / 2 ^ 8 % 2 ^ 4))) ∧
    (w >>> 12 = 0 → w &&& 0xFF ≠ 0x04 → w &&& 0xF00 ≠ 0 → ∃ e, decode w = .error e) ∧
    (w >>> 12 = 0 → w &&& 0xFF ≠ 0x04 → w &&& 0xF00 = 0 → (w &&& 0xFF).toNat ≤ 0x0B →
      ∃ i, decode w = .ok i ∧ (∀ r, i ≠ .ark r) ∧ (opcode i).toNat = (w &&& 0xFF).toNat) ∧
    (w >>> 12 = 0 → w &&& 0xFF ≠ 0x04 → w &&& 0xF00 = 0 → 0x0B < (w &&& 0xFF).toNat → ∃ e, decode w = .error e)

/-- R115: the illegal words are exactly those with OP in 0x0C..0xFF, or RSVD not zero, or ROUND not zero with OP other than
0x04; each is accepted and completes with ERR = 1 and no data state changed. -/
def Obligations.IllegalWordsAreExactlyThese : Prop :=
  (∀ w : Word, (∃ e, decode w = .error e) ↔
    (0x0C ≤ (w &&& 0xFF).toNat ∨ w >>> 12 ≠ 0 ∨ (w &&& 0xF00 ≠ 0 ∧ w &&& 0xFF ≠ 0x04))) ∧
  (∀ (s : State) (w : Word), s.phase = .idle → (∃ e, decode w = .error e) →
    ∃ r, run 2 { s with moves := [wr 0x000 w] } =
      .next { s with cmdLast := w, err := 1, done := true, moves := [], replies := r :: s.replies })

/-! ## The step -/

/-- In the DISPATCH phase the engine's step is the command CMD_LAST decodes to (R282), whether the engine moves by its place
in the list of moves or because the list is empty (log 1). -/
def Obligations.StepRunsDecodedCommand : Prop :=
  ∀ (s : State) (i : Instr), s.phase = .dispatch → decode s.cmdLast = .ok i →
    (s.moves = [] → step s = exec i s) ∧
    (∀ ms, s.moves = .engine :: ms → step s = exec i { s with moves := ms })

/-- R301: a word that decodes to ILLEGAL ends in its dispatch step with ERR = 1; nothing is recorded but the word, which
CTRL reads back, and no data state changes. -/
def Obligations.IllegalCommandRaisesErrIllegal : Prop :=
  ∀ (s : State) (e : DecodeError), s.phase = .dispatch → decode s.cmdLast = .error e →
    ∃ t, stepWith .engine s = .next t ∧ t = { s with err := 1, done := true, phase := .idle } ∧ reads 0x000 s.cmdLast t

/-- R280: a write to CTRL is accepted as a command with BUSY = 0, any word, and dropped with OVR set with BUSY = 1. -/
def Obligations.CtrlWriteAcceptsOrOverruns : Prop :=
  ∀ (s : State) (v : Word),
    (s.phase = .idle → writes 0x000 v s { s with cmdLast := v, done := false, err := 0, phase := .dispatch }) ∧
    (s.phase ≠ .idle → writes 0x000 v s { s with ovr := true })

/-- R87: what a write of v to each offset of the window does while BUSY = 0. -/
def Obligations.IdleWritesFollowTheMap : Prop :=
  ∀ (s : State) (v : Word), s.phase = .idle →
    writes 0x000 v s { s with cmdLast := v, done := false, err := 0, phase := .dispatch } ∧
    writes 0x004 v s
      { s with done := if v.getLsbD 1 then false else s.done, ovr := if v.getLsbD 3 then false else s.ovr } ∧
    writes 0x008 v s { s with doneIe := v.getLsbD 0 } ∧
    writes 0x00C v s { s with klen := v.extractLsb' 0 8 } ∧
    (∀ j (h : j < 8), writes (0x010 + 4 * j) v s { s with key := s.key.set j v }) ∧
    (∀ c, c < 4 → ∃ b : Block, writes (0x030 + 4 * c) v s { s with st := b } ∧
      b[4 * c]? = some (v.extractLsb' 24 8) ∧ b[4 * c + 1]? = some (v.extractLsb' 16 8) ∧
      b[4 * c + 2]? = some (v.extractLsb' 8 8) ∧ b[4 * c + 3]? = some (v.extractLsb' 0 8) ∧
      ∀ i, i / 4 ≠ c → b[i]? = s.st[i]?) ∧
    writes 0x040 v s { s with gfA := v.extractLsb' 0 8, gfB := v.extractLsb' 8 8 } ∧
    (∀ off, off % 4 = 0 → 0x044 ≤ off → off < 0x200 → writes off v s s)

/-- R88: while BUSY = 1 a write to STATUS or INTEN takes effect as in R87, any other admitted write is dropped with
OVR <- 1, and OVR stays 1 until the host clears it (R34) or reset. -/
def Obligations.BusyWritesAreDropped : Prop :=
  (∀ (s : State) (v : Word), s.phase ≠ .idle →
    writes 0x004 v s
      { s with done := if v.getLsbD 1 then false else s.done, ovr := if v.getLsbD 3 then false else s.ovr } ∧
    writes 0x008 v s { s with doneIe := v.getLsbD 0 } ∧
    (∀ off, off % 4 = 0 → off < 0x200 → off ≠ 0x004 → off ≠ 0x008 → writes off v s { s with ovr := true })) ∧
  (∀ (s t : State) (m : Move), s.ovr = true → stepWith m s = .next t → t.ovr = false →
    m = .reset ∨ ∃ v : Word, isWrite m 0x004 v ∧ v.getLsbD 3 = true)

/-- R34: a write of v to STATUS clears DONE if v[1] = 1 and OVR if v[3] = 1, ignores every other bit, busy or not. -/
def Obligations.StatusWriteClearsDoneAndOvr : Prop :=
  ∀ (s : State) (v : Word),
    writes 0x004 v s
      { s with done := if v.getLsbD 1 then false else s.done, ovr := if v.getLsbD 3 then false else s.ovr }

/-- R86: the value each offset of the window reads as, and `draw()` for STATE, GFRES and EXPKEY while BUSY = 1 (R41): a free
value, whatever it is; that it is `Config.draw` of the counter `draws` is the model's choice (log 3). -/
def Obligations.ReadsFollowTheMap : Prop :=
  ∀ s : State,
    reads 0x000 s.cmdLast s ∧
    reads 0x004
      ((0 : BitVec 8) ++ s.ekNk ++ s.ekNr ++ (0 : BitVec 4) ++ s.err ++ (0 : BitVec 4) ++ BitVec.ofBool s.ovr
        ++ BitVec.ofBool s.keyValid ++ BitVec.ofBool s.done ++ BitVec.ofBool (decide (s.phase ≠ .idle))) s ∧
    reads 0x008 ((0 : BitVec 31) ++ BitVec.ofBool s.doneIe) s ∧
    reads 0x00C ((0 : BitVec 24) ++ s.klen) s ∧
    (∀ j (h : j < 8), reads (0x010 + 4 * j) s.key[j] s) ∧
    reads 0x040 ((0 : BitVec 16) ++ s.gfB ++ s.gfA) s ∧
    (∀ off, off % 4 = 0 → (0x048 ≤ off ∧ off < 0x100 ∨ 0x1F0 ≤ off ∧ off < 0x200) → reads off 0 s) ∧
    (s.phase = .idle →
      (∀ c (h : c < 4),
        reads (0x030 + 4 * c) (s.st[4 * c] ++ s.st[4 * c + 1] ++ s.st[4 * c + 2] ++ s.st[4 * c + 3]) s) ∧
      reads 0x044 ((0 : BitVec 24) ++ s.gfP) s ∧
      (∀ i (h : i < 60), reads (0x100 + 4 * i) s.ek[i] s)) ∧
    (s.phase ≠ .idle →
      ∀ off, off % 4 = 0 → (0x030 ≤ off ∧ off < 0x040 ∨ off = 0x044 ∨ 0x100 ≤ off ∧ off < 0x1F0) →
        stepWith (rd off) s =
          .next { s with replies := .data (Config.draw s.draws) :: s.replies, draws := s.draws + 1 })

/-- R84: an access in the window is admitted if and only if it is 32 bits wide at a multiple of 4; any other gets the bus's
error response, no value, and changes no state, OVR included; an access outside the window is not decoded by the engine.
The model's choices: that the run goes on after an error response (log 2), and that an access outside the window is never
answered with data (log 4). -/
def Obligations.AccessesNotAdmittedChangeNothing : Prop :=
  ∀ (s : State) (a : Access),
    ((Config.aesBase ≤ a.addr ∧ a.addr < Config.aesBase + 0x200) →
      ¬ (a.bytes = 4 ∧ (a.addr - Config.aesBase) % 4 = 0) →
      stepWith (.access a) s = .next { s with replies := .busError Config.busError :: s.replies }) ∧
    ((Config.aesBase ≤ a.addr ∧ a.addr < Config.aesBase + 0x200) →
      (a.bytes = 4 ∧ (a.addr - Config.aesBase) % 4 = 0) →
      ∃ t r, stepWith (.access a) s = .next t ∧ t.replies = r :: s.replies ∧ (∀ form, r ≠ .busError form) ∧
        (a.kind = .read → ∃ w, r = .data w)) ∧
    (¬ (Config.aesBase ≤ a.addr ∧ a.addr < Config.aesBase + 0x200) →
      ∃ r, stepWith (.access a) s = .next { s with replies := r :: s.replies } ∧ (∀ w, r ≠ .data w))

/-- R85: "No read has a side effect": a read answers one value and leaves every field of the engine as it was, busy or not. -/
def Obligations.ReadsChangeNoEngineState : Prop :=
  ∀ (s : State) (off : Nat), off % 4 = 0 → off < 0x200 →
    ∃ (w : Word) (n : Nat), stepWith (rd off) s = .next { s with replies := .data w :: s.replies, draws := n }

/-- R340: the reset action in any state, busy or not: every field of the state tuple of R61 (and irq falls, R341). -/
def Obligations.ResetClearsEveryField : Prop :=
  ∀ s : State, ∃ t, stepWith .reset s = .next t ∧
    t.cmdLast = 0 ∧ t.done = false ∧ t.keyValid = false ∧ t.ovr = false ∧ t.err = 0 ∧ t.ekNr = 0 ∧ t.ekNk = 0 ∧
    t.doneIe = false ∧ t.klen = 0 ∧ (∀ j (h : j < 8), t.key[j] = 0) ∧ (∀ i (h : i < 16), t.st[i] = 0) ∧
    t.gfA = 0 ∧ t.gfB = 0 ∧ t.gfP = 0 ∧ (∀ i (h : i < 60), t.ek[i] = 0) ∧
    t.phase = .idle ∧ t.rc = 0 ∧ t.dir = .encrypt ∧ t.kxI = 0 ∧ t.kxNk = 0 ∧ t.kxNr = 0 ∧
    irq t = false

/-- R343: after reset every register reads 0x00000000, the reserved offsets too, and irq = 0. -/
def Obligations.RegistersReadZeroAfterReset : Prop :=
  irq State.reset = false ∧
  (∀ off, off % 4 = 0 → off < 0x200 → reads off 0 State.reset) ∧
  (∀ (s t : State), stepWith .reset s = .next t →
    irq t = false ∧ ∀ off, off % 4 = 0 → off < 0x200 → reads off 0 t)

/-- R310: irq is DONE and DONE_IE, and every completion sets DONE, so irq is up after a completion with DONE_IE = 1. -/
def Obligations.InterruptOutputIsDoneAndEnable : Prop :=
  (∀ s : State, irq s = true ↔ (s.done = true ∧ s.doneIe = true)) ∧
  (∀ s t : State, s.phase ≠ .idle → s.doneIe = true → stepWith .engine s = .next t → t.phase = .idle → irq t = true)

/-- R311: irq falls when the host writes 1 to STATUS bit 1, when a command is accepted, when the host writes DONE_IE = 0, or
at reset, and in no other way; DONE is the pending state and DONE_IE the enable, there is no other. -/
def Obligations.InterruptFallsOnlyAsListed : Prop :=
  (∀ (s t : State) (m : Move), irq s = true → stepWith m s = .next t →
    (irq t = false ↔
      m = .reset ∨
      (∃ v : Word, isWrite m 0x004 v ∧ v.getLsbD 1 = true) ∨
      (s.phase = .idle ∧ ∃ v : Word, isWrite m 0x000 v) ∨
      (∃ v : Word, isWrite m 0x008 v ∧ v.getLsbD 0 = false))) ∧
  (∀ s : State, irq s = (s.done && s.doneIe))

/-! ## One-step commands -/

/-- R286: NOP completes with ERR 0, DONE 1, CMD_LAST 0 and no data state changed; 0x00000100 is illegal, not NOP. -/
def Obligations.NopCompletes : Prop :=
  decode 0x00000000#32 = .ok .nop ∧ decode 0x00000100#32 = .error .roundField ∧
  (∀ s : State, exec .nop s = .next { s with err := 0, done := true, phase := .idle }) ∧
  (∀ s : State, s.phase = .idle →
    ∃ r, run 2 { s with moves := [cmd .nop] } =
      .next { s with cmdLast := 0, err := 0, done := true, moves := [], replies := r :: s.replies })

/-- R170: GFMUL writes the field product of GF_A and GF_B to GF_P and completes; nothing else changes. The product is R142's
loop written out: the XOR over the set bits k of GF_B of x^k times GF_A. -/
def Obligations.GfmulCommand : Prop :=
  (∀ w : Word, decode w = .ok .gfmul ↔ w = 0x0000000B) ∧
  (∀ s : State, ∃ p : Byte,
    exec .gfmul s = .next { s with gfP := p, err := 0, done := true, phase := .idle } ∧
    p = (List.range 8).foldl (fun acc k => if s.gfB.getLsbD k then acc ^^^ xtime^[k] s.gfA else acc) 0) ∧
  (∀ x : Byte, gfmul 0 x = 0 ∧ gfmul x 0 = 0 ∧ gfmul 1 x = x ∧ gfmul x 1 = x) ∧
  gfmul 0xFF 0xFF = 0x13 ∧ gfmul 0x02 0x80 = 0x1B ∧ gfmul 0xAF 0x08 = 0x0F

/-- R146: the laws of gfmul. -/
def Obligations.GfmulLaws : Prop :=
  (∀ x : Byte, gfmul 0 x = 0) ∧ (∀ x : Byte, gfmul 1 x = x) ∧
  (∀ a b : Byte, gfmul a b = gfmul b a) ∧
  (∀ a b c : Byte, gfmul a (gfmul b c) = gfmul (gfmul a b) c) ∧
  (∀ a b c : Byte, gfmul a (b ^^^ c) = gfmul a b ^^^ gfmul a c) ∧
  (∀ a b : Byte, gfmul a b = 0 → a = 0 ∨ b = 0)

/-- R145: the log/antilog algorithm of R144 gives the field product, for all 65536 pairs. -/
def Obligations.GfmulEqualsTheLogAlgorithm : Prop :=
  ∀ a b : Byte, gfmulLog a b = gfmul a b

/-- R150: ALOG holds the powers of 0x03, and LOG inverts it on 0..254. -/
def Obligations.LogTablesAreGeneratorPowers : Prop :=
  (∀ k, k ≤ 255 → alog (BitVec.ofNat 8 k) = generatorPower k) ∧
  (∀ k, k ≤ 254 → logOf (alog (BitVec.ofNat 8 k)) = BitVec.ofNat 8 k)

/-- R155 and R147: the S-box is the affine map of the inverse, bit by bit, and ginv is the one inverse. -/
def Obligations.SboxIsAffineOfInverse : Prop :=
  (∀ a : Byte, a ≠ 0 → ∀ b : Byte, gfmul a b = 1 ↔ b = ginv a) ∧ ginv 0 = 0 ∧
  (∀ a : Byte, sbox a = affine (ginv a)) ∧
  (∀ (b : Byte) (k : Nat), k < 8 →
    (affine b).getLsbD k =
      (b.getLsbD k ^^ b.getLsbD ((k + 4) % 8) ^^ b.getLsbD ((k + 5) % 8) ^^ b.getLsbD ((k + 6) % 8)
        ^^ b.getLsbD ((k + 7) % 8) ^^ (0x63 : Byte).getLsbD k))

/-- R157: the two S-boxes are inverse permutations of the bytes. -/
def Obligations.SboxesAreInverse : Prop :=
  ∀ a : Byte, invSbox (sbox a) = a ∧ sbox (invSbox a) = a

/-- R160: RCON[0] = 0x01000000, each entry is xtime of the one before in the top byte, and there are 14 entries. -/
def Obligations.RoundConstantsArePowers : Prop :=
  rcon 0 = some 0x01000000 ∧
  (∀ j, j + 1 < 14 → ∃ w : Word, rcon j = some w ∧
    rcon (j + 1) = some (xtime (w.extractLsb' 24 8) ++ (0 : BitVec 24))) ∧
  (∀ j, rcon j = none ↔ 14 ≤ j)

/-- R163: MIX × INV_MIX = INV_MIX × MIX = I over GF(2^8). -/
def Obligations.MixMatricesAreInverse : Prop :=
  ∀ r c : Fin 4,
    (gfmul mix[r][0] invMix[0][c] ^^^ gfmul mix[r][1] invMix[1][c] ^^^ gfmul mix[r][2] invMix[2][c]
      ^^^ gfmul mix[r][3] invMix[3][c]) = (if r = c then 1 else 0) ∧
    (gfmul invMix[r][0] mix[0][c] ^^^ gfmul invMix[r][1] mix[1][c] ^^^ gfmul invMix[r][2] mix[2][c]
      ^^^ gfmul invMix[r][3] mix[3][c]) = (if r = c then 1 else 0)

/-- R220, R222 (R211, R212): SB and ISB in every state: each state byte through the S-box or its inverse, DONE 1, ERR 0, all
else unchanged. -/
def Obligations.SubstitutionCommands : Prop :=
  decode 0x00000005#32 = .ok .sb ∧ decode 0x00000006#32 = .ok .isb ∧
  (∀ s : State, ∃ b : Block,
    exec .sb s = .next { s with st := b, err := 0, done := true, phase := .idle } ∧
    ∀ i (h : i < 16), b[i] = sbox s.st[i]) ∧
  (∀ s : State, ∃ b : Block,
    exec .isb s = .next { s with st := b, err := 0, done := true, phase := .idle } ∧
    ∀ i (h : i < 16), b[i] = invSbox s.st[i]) ∧
  (∀ x : Byte, sbox x ≠ x) ∧
  subBytes (blockOfHex 0x00112233445566778899aabbccddeeff) = blockOfHex 0x638293c31bfc33f5c4eeacea4bc12816 ∧
  invSubBytes (blockOfHex 0x638293c31bfc33f5c4eeacea4bc12816) = blockOfHex 0x00112233445566778899aabbccddeeff

/-- R226, R228 (R213, R214): SR and ISR in every state: row r rotates left or right by r columns, DONE 1, ERR 0, all else
unchanged; both are the permutations P and Q the rules print; four SR restore the state; row 0 never moves; SR and ISR
agree on rows 0 and 2. -/
def Obligations.RowShiftCommands : Prop :=
  decode 0x00000007#32 = .ok .sr ∧ decode 0x00000008#32 = .ok .isr ∧
  (∀ s : State, ∃ b : Block,
    exec .sr s = .next { s with st := b, err := 0, done := true, phase := .idle } ∧
    (∀ r c, r < 4 → c < 4 → b[r + 4 * c]? = s.st[r + 4 * ((c + r) % 4)]?) ∧
    ∀ i, i < 16 → b[i]? = s.st[([0, 5, 10, 15, 4, 9, 14, 3, 8, 13, 2, 7, 12, 1, 6, 11] : List Nat).getD i 16]?) ∧
  (∀ s : State, ∃ b : Block,
    exec .isr s = .next { s with st := b, err := 0, done := true, phase := .idle } ∧
    (∀ r c, r < 4 → c < 4 → b[r + 4 * ((c + r) % 4)]? = s.st[r + 4 * c]?) ∧
    ∀ i, i < 16 → b[i]? = s.st[([0, 13, 10, 7, 4, 1, 14, 11, 8, 5, 2, 15, 12, 9, 6, 3] : List Nat).getD i 16]?) ∧
  (∀ b : Block, shiftRows (shiftRows (shiftRows (shiftRows b))) = b) ∧
  (∀ (b : Block) (c : Nat), c < 4 → (shiftRows b)[4 * c]? = b[4 * c]? ∧ (invShiftRows b)[4 * c]? = b[4 * c]?) ∧
  (∀ (b : Block) (i : Nat), i % 4 = 0 ∨ i % 4 = 2 → (shiftRows b)[i]? = (invShiftRows b)[i]?)

/-- R232, R234 (R215, R216): MC and IMC in every state: each column's four output bytes as the rules write them out, DONE 1,
ERR 0, all else unchanged; a column of four equal bytes stays, whatever the other columns hold. -/
def Obligations.ColumnMixCommands : Prop :=
  decode 0x00000009#32 = .ok .mc ∧ decode 0x0000000A#32 = .ok .imc ∧
  (∀ s : State, ∃ b : Block,
    exec .mc s = .next { s with st := b, err := 0, done := true, phase := .idle } ∧
    ∀ c (h : c < 4),
      b[4 * c] = gfmul 2 s.st[4 * c] ^^^ gfmul 3 s.st[4 * c + 1] ^^^ s.st[4 * c + 2] ^^^ s.st[4 * c + 3] ∧
      b[4 * c + 1] = s.st[4 * c] ^^^ gfmul 2 s.st[4 * c + 1] ^^^ gfmul 3 s.st[4 * c + 2] ^^^ s.st[4 * c + 3] ∧
      b[4 * c + 2] = s.st[4 * c] ^^^ s.st[4 * c + 1] ^^^ gfmul 2 s.st[4 * c + 2] ^^^ gfmul 3 s.st[4 * c + 3] ∧
      b[4 * c + 3] = gfmul 3 s.st[4 * c] ^^^ s.st[4 * c + 1] ^^^ s.st[4 * c + 2] ^^^ gfmul 2 s.st[4 * c + 3]) ∧
  (∀ s : State, ∃ b : Block,
    exec .imc s = .next { s with st := b, err := 0, done := true, phase := .idle } ∧
    ∀ c (h : c < 4),
      b[4 * c] =
        gfmul 14 s.st[4 * c] ^^^ gfmul 11 s.st[4 * c + 1] ^^^ gfmul 13 s.st[4 * c + 2] ^^^ gfmul 9 s.st[4 * c + 3] ∧
      b[4 * c + 1] =
        gfmul 9 s.st[4 * c] ^^^ gfmul 14 s.st[4 * c + 1] ^^^ gfmul 11 s.st[4 * c + 2] ^^^ gfmul 13 s.st[4 * c + 3] ∧
      b[4 * c + 2] =
        gfmul 13 s.st[4 * c] ^^^ gfmul 9 s.st[4 * c + 1] ^^^ gfmul 14 s.st[4 * c + 2] ^^^ gfmul 11 s.st[4 * c + 3] ∧
      b[4 * c + 3] =
        gfmul 11 s.st[4 * c] ^^^ gfmul 13 s.st[4 * c + 1] ^^^ gfmul 9 s.st[4 * c + 2] ^^^ gfmul 14 s.st[4 * c + 3]) ∧
  (∀ (b : Block) (a : Byte) (c : Nat), c < 4 → (∀ i, i / 4 = c → b[i]? = some a) →
    ∀ i, i / 4 = c → (mixColumns b)[i]? = some a ∧ (invMixColumns b)[i]? = some a) ∧
  mixColumns (blockOfHex 0xd4bf5d30d4bf5d30d4bf5d30d4bf5d30) = blockOfHex 0x046681e5046681e5046681e5046681e5 ∧
  mixColumns (blockOfHex 0x01000000db135345d4d4d4d500000000) = blockOfHex 0x020101038e4da1bcd5d5d7d600000000 ∧
  invMixColumns (blockOfHex 0x046681e50100000000000000046681e5) = blockOfHex 0xd4bf5d300e090d0b00000000d4bf5d30

/-- R240: ARK r is ERR 3 with no schedule (which has priority, R307), ERR 4 with r above EK_NR, both with ST unchanged, and
else the XOR of round key r: byte n with ekb(16r + n), in words STATEc with EK[4r + c]. EK_NR is at most 14 in every state
a run reaches (R33; the invariant says so). -/
def Obligations.AddRoundKeyCommand : Prop :=
  (∀ r, r < 16 → decode (0x00000004#32 ||| BitVec.ofNat 32 r <<< 8) = .ok (.ark r)) ∧
  (∀ (s : State) (r : Nat), s.keyValid = false →
    exec (.ark r) s = .next { s with err := 3, done := true, phase := .idle }) ∧
  (∀ (s : State) (r : Nat), s.keyValid = true → s.ekNr.toNat < r →
    exec (.ark r) s = .next { s with err := 4, done := true, phase := .idle }) ∧
  (∀ (s : State) (r : Nat), s.keyValid = true → r ≤ s.ekNr.toNat → (hr : r ≤ 14) →
    ∃ b : Block, exec (.ark r) s = .next { s with st := b, err := 0, done := true, phase := .idle } ∧
      (∀ n (h : n < 16), b[n] = s.st[n] ^^^ byteOf s.ek[4 * r + n / 4] (n % 4)) ∧
      (∀ c : Fin 4, columnWord b c = columnWord s.st c ^^^ s.ek[4 * r + c.val]))

/-- R218: the laws of the transforms, for every state and round. -/
def Obligations.TransformLaws : Prop :=
  (∀ s : Block, invSubBytes (subBytes s) = s ∧ subBytes (invSubBytes s) = s) ∧
  (∀ s : Block, invShiftRows (shiftRows s) = s ∧ shiftRows (invShiftRows s) = s) ∧
  (∀ s : Block, invMixColumns (mixColumns s) = s ∧ mixColumns (invMixColumns s) = s) ∧
  (∀ (ek : Vector Word 60) (s : Block) (r : Nat), addRoundKey ek (addRoundKey ek s r) r = s) ∧
  (∀ s : Block, subBytes (shiftRows s) = shiftRows (subBytes s)) ∧
  (∀ (s s' : Block) (i : Nat), s[i]? = s'[i]? →
    (subBytes s)[i]? = (subBytes s')[i]? ∧ (invSubBytes s)[i]? = (invSubBytes s')[i]?) ∧
  (∀ (s s' : Block) (r : Nat), (∀ i, i % 4 = r → s[i]? = s'[i]?) →
    ∀ i, i % 4 = r →
      (shiftRows s)[i]? = (shiftRows s')[i]? ∧ (invShiftRows s)[i]? = (invShiftRows s')[i]?) ∧
  (∀ (s s' : Block) (c : Nat), (∀ i, i / 4 = c → s[i]? = s'[i]?) →
    ∀ i, i / 4 = c →
      (mixColumns s)[i]? = (mixColumns s')[i]? ∧ (invMixColumns s)[i]? = (invMixColumns s')[i]?)

/-! ## The key schedule -/

/-- The dispatch step of KEYEXP (R190): the schedule is invalidated; a KLEN not 16, 24 or 32 is ERR 2 with EK unchanged
(R302), else the expander starts at word 0. -/
def Obligations.KeyexpDispatch : Prop :=
  ∀ s : State,
    (¬ (s.klen.toNat = 16 ∨ s.klen.toNat = 24 ∨ s.klen.toNat = 32) →
      exec .keyexp s =
        .next { s with keyValid := false, ekNk := 0, ekNr := 0, err := 2, done := true, phase := .idle }) ∧
    ((s.klen.toNat = 16 ∨ s.klen.toNat = 24 ∨ s.klen.toNat = 32) →
      exec .keyexp s =
        .next { s with
          keyValid := false
          ekNk := 0
          ekNr := 0
          kxNk := BitVec.ofNat 4 (s.klen.toNat / 4)
          kxNr := BitVec.ofNat 4 (s.klen.toNat / 4 + 6)
          kxI := 0
          phase := .keyexp })

/-- R195: while PHASE = KEYEXP each engine step does exactly one of LOAD, GEN, CLEAR, DONE, chosen by KX_I. -/
def Obligations.ExpanderStepWritesOneWord : Prop :=
  ∀ s : State, Inv s → s.phase = .keyexp →
    (s.kxI.toNat < 60 → ∃ t, stepWith .engine s = .next t ∧
      t = { s with ek := t.ek, kxI := s.kxI + 1 } ∧
      (∀ j, j ≠ s.kxI.toNat → t.ek[j]? = s.ek[j]?) ∧
      (s.kxI.toNat < s.kxNk.toNat → t.ek[s.kxI.toNat]? = s.key[s.kxI.toNat]?) ∧
      (s.kxNk.toNat ≤ s.kxI.toNat → s.kxI.toNat < 4 * (s.kxNr.toNat + 1) →
        ∃ prev back, s.ek[s.kxI.toNat - 1]? = some prev ∧ s.ek[s.kxI.toNat - s.kxNk.toNat]? = some back ∧
          t.ek[s.kxI.toNat]? = nextWord s.kxI.toNat s.kxNk.toNat prev back) ∧
      (s.kxNk.toNat ≤ s.kxI.toNat → 4 * (s.kxNr.toNat + 1) ≤ s.kxI.toNat → t.ek[s.kxI.toNat]? = some 0)) ∧
    (s.kxI.toNat = 60 →
      stepWith .engine s =
        .next { s with ekNk := s.kxNk, ekNr := s.kxNr, keyValid := true, err := 0, done := true, phase := .idle })

/-- R196: KEYEXP with a legal KLEN, from any state, alone on the bus: its dispatch step and 61 engine steps more leave
KeyExpansion(KEY, Nk) in EK, 0 after it, EK_NK = Nk, EK_NR = Nr, KEY_VALID = 1, and complete; all else but the expander's
counters is unchanged. -/
def Obligations.KeyexpCommandExpandsTheKey : Prop :=
  ∀ s : State, s.moves = [] → (s.klen.toNat = 16 ∨ s.klen.toNat = 24 ∨ s.klen.toNat = 32) →
    ∃ t₀ t : State, exec .keyexp s = .next t₀ ∧ run 61 t₀ = .next t ∧
      t = { s with
        ek := t.ek
        keyValid := true
        ekNk := BitVec.ofNat 4 (s.klen.toNat / 4)
        ekNr := BitVec.ofNat 4 (s.klen.toNat / 4 + 6)
        kxI := 60
        kxNk := BitVec.ofNat 4 (s.klen.toNat / 4)
        kxNr := BitVec.ofNat 4 (s.klen.toNat / 4 + 6)
        err := 0
        done := true
        phase := .idle } ∧
      expandedStore s.key (s.klen.toNat / 4) = some t.ek.toList

/-- R183, R184: for each legal Nk the expansion exists, its words below Nk are the key's, every later word follows the
recurrence, branch by branch, and the words past the schedule are 0 (R40); in a store that holds it, byte ekb(4i + k) is
byte k of word i, most significant first. R181, R182: RotWord and SubWord, byte by byte; and the worked word EK[4] of R190's
example. -/
def Obligations.ExpandedKeyFollowsTheRecurrence : Prop :=
  (∀ w : Word, rotWord w = w.extractLsb' 0 24 ++ w.extractLsb' 24 8) ∧
  (∀ w : Word,
    subWord w =
      sbox (w.extractLsb' 24 8) ++ sbox (w.extractLsb' 16 8) ++ sbox (w.extractLsb' 8 8) ++ sbox (w.extractLsb' 0 8)) ∧
  nextWord 4 4 0x09cf4f3c 0x2b7e1516 = some 0xa0fafe17 ∧
  ∀ (key : Vector Word 8) (nk : Nat), nk = 4 ∨ nk = 6 ∨ nk = 8 →
    ∃ ws : List Word, expandedStore key nk = some ws ∧ ws.length = 60 ∧
      (∀ i, i < nk → ws[i]? = key[i]?) ∧
      (∀ i, nk ≤ i → i < 4 * (nk + 7) →
        ∃ prev back w : Word, ws[i - 1]? = some prev ∧ ws[i - nk]? = some back ∧ ws[i]? = some w ∧
          (i % nk = 0 → ∃ rc, rcon (i / nk - 1) = some rc ∧ w = subWord (rotWord prev) ^^^ rc ^^^ back) ∧
          (i % nk ≠ 0 → nk = 8 → i % 4 = 0 → w = subWord prev ^^^ back) ∧
          (i % nk ≠ 0 → ¬ (nk = 8 ∧ i % 4 = 0) → w = prev ^^^ back)) ∧
      (∀ i, 4 * (nk + 7) ≤ i → i < 60 → ws[i]? = some 0) ∧
      (∀ ek : Vector Word 60, ek.toList = ws → ∀ i k, i < 60 → k < 4 →
        ∃ w : Word, ws[i]? = some w ∧ ekByte ek (4 * i + k) = w.extractLsb' (24 - 8 * k) 8)

/-! ## The cipher -/

/-- The dispatch step of ENC and DEC (R260, R265): ERR 3 with ST unchanged when no schedule is valid (R303), else DIR is set,
RC is 0 and the sequencer runs. -/
def Obligations.CipherDispatch : Prop :=
  ∀ s : State,
    (s.keyValid = false →
      exec .enc s = .next { s with err := 3, done := true, phase := .idle } ∧
      exec .dec s = .next { s with err := 3, done := true, phase := .idle }) ∧
    (s.keyValid = true →
      exec .enc s = .next { s with dir := .encrypt, rc := 0, phase := .cipher } ∧
      exec .dec s = .next { s with dir := .decrypt, rc := 0, phase := .cipher })

/-- R253, R254: one sequencer step computes the row of the round table that RC and DIR select; after round NR the command
completes, before it RC counts up by 1. -/
def Obligations.SequencerStepComputesOneRound : Prop :=
  ∀ s : State, s.phase = .cipher → s.rc.toNat ≤ s.ekNr.toNat → s.ekNr.toNat ≤ 14 →
    ∃ b : Block,
      (s.dir = .encrypt → s.rc.toNat = 0 → b = addRoundKey s.ek s.st 0) ∧
      (s.dir = .encrypt → 1 ≤ s.rc.toNat → s.rc.toNat < s.ekNr.toNat →
        b = addRoundKey s.ek (mixColumns (shiftRows (subBytes s.st))) s.rc.toNat) ∧
      (s.dir = .encrypt → 1 ≤ s.rc.toNat → s.rc.toNat = s.ekNr.toNat →
        b = addRoundKey s.ek (shiftRows (subBytes s.st)) s.ekNr.toNat) ∧
      (s.dir = .decrypt → s.rc.toNat = 0 → b = addRoundKey s.ek s.st s.ekNr.toNat) ∧
      (s.dir = .decrypt → 1 ≤ s.rc.toNat → s.rc.toNat < s.ekNr.toNat →
        b = invMixColumns (addRoundKey s.ek (invSubBytes (invShiftRows s.st)) (s.ekNr.toNat - s.rc.toNat))) ∧
      (s.dir = .decrypt → 1 ≤ s.rc.toNat → s.rc.toNat = s.ekNr.toNat →
        b = addRoundKey s.ek (invSubBytes (invShiftRows s.st)) 0) ∧
      (s.rc.toNat = s.ekNr.toNat →
        stepWith .engine s = .next { s with st := b, err := 0, done := true, phase := .idle }) ∧
      (s.rc.toNat < s.ekNr.toNat →
        ∃ t, stepWith .engine s = .next t ∧ t = { s with st := b, rc := t.rc } ∧ t.rc.toNat = s.rc.toNat + 1)

/-- R260: ENC with a valid schedule, from any state, alone on the bus: its dispatch step and NR + 1 engine steps more leave
Cipher(ST, EK, EK_NR) (R255) in ST and complete; all else but DIR and RC is unchanged. -/
def Obligations.EncCommandEncrypts : Prop :=
  ∀ s : State, s.moves = [] → s.keyValid = true → s.ekNr.toNat ≤ 14 →
    ∃ t₀ : State, exec .enc s = .next t₀ ∧
      run (s.ekNr.toNat + 1) t₀ =
        .next { s with
          st := cipher s.ek s.ekNr.toNat s.st
          dir := .encrypt
          rc := s.ekNr
          err := 0
          done := true
          phase := .idle }

/-- R265: the same for DEC, with InvCipher. -/
def Obligations.DecCommandDecrypts : Prop :=
  ∀ s : State, s.moves = [] → s.keyValid = true → s.ekNr.toNat ≤ 14 →
    ∃ t₀ : State, exec .dec s = .next t₀ ∧
      run (s.ekNr.toNat + 1) t₀ =
        .next { s with
          st := invCipher s.ek s.ekNr.toNat s.st
          dir := .decrypt
          rc := s.ekNr
          err := 0
          done := true
          phase := .idle }

/-- R256: decrypting what was encrypted with the same schedule gives the block back, and the reverse, for every round count
of at least 1 (10, 12 and 14 among them), every key store and every block. -/
def Obligations.CipherRoundTrip : Prop :=
  ∀ (ek : Vector Word 60) (nr : Nat) (b : Block), 1 ≤ nr →
    invCipher ek nr (cipher ek nr b) = b ∧ cipher ek nr (invCipher ek nr b) = b

/-! ## Invariants and whole-machine rules -/

/-- The invariant of R33, R40, R190, R195, R254, R281, R305 (Inv) is kept by every step, whatever the host does. -/
def Obligations.EngineInvariantIsKept : Prop :=
  ∀ s t : State, Inv s → step s = .next t → Inv t

/-- The state after reset meets the invariant and the soundness of the schedule. -/
def Obligations.ResetMeetsTheInvariant : Prop :=
  Inv State.reset ∧ ScheduleSound State.reset

/-- From a state that meets the invariant no step stops: no round key and no schedule word is ever asked for outside its
store (R82). -/
def Obligations.NoStepStopsFromAGoodState : Prop :=
  ∀ s : State, Inv s → ∃ t, step s = .next t

/-- R33 (KEY_VALID), R196: whenever KEY_VALID = 1, EK is the expansion of some key of EK_NK words, and every step keeps it
so, whatever the host does. -/
def Obligations.ScheduleSoundnessIsKept : Prop :=
  ∀ s t : State, Inv s → ScheduleSound s → step s = .next t → ScheduleSound t

/-- R281: while a command runs a read of STATUS gives BUSY = 1, DONE = 0 and ERR = 0. -/
def Obligations.StatusReadsQuietWhileBusy : Prop :=
  ∀ s : State, Inv s → s.phase ≠ .idle →
    ∃ w : Word, reads 0x004 w s ∧ w.getLsbD 0 = true ∧ w.getLsbD 1 = false ∧ w.extractLsb' 8 4 = 0

/-- R197: a step changes KEY_VALID, EK_NK or EK_NR only if it is the dispatch step of KEYEXP, which clears them, the
expander's completion, which sets KEY_VALID, or reset; and (R40) EK only if it is the expander's step, or reset. -/
def Obligations.OnlyKeyexpAndResetWriteTheSchedule : Prop :=
  ∀ s t : State, step s = .next t →
    ((t.keyValid ≠ s.keyValid ∨ t.ekNk ≠ s.ekNk ∨ t.ekNr ≠ s.ekNr) →
      (∃ ms, s.moves = .reset :: ms) ∨
      (enginesTurn s ∧
        ((s.phase = .dispatch ∧ decode s.cmdLast = .ok .keyexp ∧ t.keyValid = false ∧ t.ekNk = 0 ∧ t.ekNr = 0) ∨
          (s.phase = .keyexp ∧ t.keyValid = true ∧ t.ekNk = s.kxNk ∧ t.ekNr = s.kxNr ∧ t.err = 0 ∧ t.phase = .idle)))) ∧
    (t.ek ≠ s.ek → (∃ ms, s.moves = .reset :: ms) ∨ (enginesTurn s ∧ s.phase = .keyexp))

/-- R39: a step changes GF_P only if it is the dispatch step of GFMUL, or reset. -/
def Obligations.OnlyGfmulAndResetWriteTheProduct : Prop :=
  ∀ s t : State, step s = .next t → t.gfP ≠ s.gfP →
    (∃ ms, s.moves = .reset :: ms) ∨
    (enginesTurn s ∧ s.phase = .dispatch ∧ decode s.cmdLast = .ok .gfmul)

/-- R88, R285: while a command runs no access of the host, admitted or not, changes a field of the engine's own; and every
access gets one answer in the model's record of answers (log 2). -/
def Obligations.HostAccessesLeaveARunningCommandAlone : Prop :=
  ∀ (s : State) (m : Move), s.phase ≠ .idle → isHosts m →
    ∃ t r, stepWith m s = .next t ∧ engineView t = engineView s ∧ t.err = s.err ∧ t.replies = r :: s.replies

/-- R285: the atomic view. Whatever the host does while the command runs, short of reset, and however its accesses fall
between the engine's steps, at the first step that finds the engine idle again the result registers are those of the
command applied at once to the state at acceptance. -/
def Obligations.CommandsAreAtomic : Prop :=
  ∀ (s t : State) (k : Nat), Inv s → s.phase = .dispatch → (∀ m ∈ s.moves, m ≠ .reset) →
    run k s = .next t → t.phase = .idle → (∀ j u, j < k → run j s = .next u → u.phase ≠ .idle) →
    resultOf t = atomicResult s ∧ t.done = true

/-- R283 with the counts of R360: with the host away, a command completes after exactly `stepsLeft` engine steps, at most
62, with DONE = 1, and is busy until then. The exact counts are those of the reference micro-architecture, no promise of
every implementation (R366; log 7). -/
def Obligations.CommandsCompleteInTheStatedSteps : Prop :=
  ∀ s : State, Inv s → s.moves = [] → s.phase ≠ .idle →
    stepsLeft s ≤ 62 ∧
    (∃ t, run (stepsLeft s) s = .next t ∧ t.phase = .idle ∧ t.done = true) ∧
    (∀ j, j < stepsLeft s → ∃ u, run j s = .next u ∧ u.phase ≠ .idle)

/-- R300, R307: when a dispatch step ends its command, ERR is 1 exactly for an illegal word, 2 for KEYEXP with a bad KLEN, 3
for ENC, DEC or ARK with no schedule, 4 for ARK above EK_NR with one, and never more; a command that ends in a later step
ends with 0. -/
def Obligations.ErrorCodesHaveTheirCauses : Prop :=
  (∀ s t : State, s.phase = .keyexp ∨ s.phase = .cipher → stepWith .engine s = .next t → t.phase = .idle → t.err = 0) ∧
  ∀ s t : State, s.phase = .dispatch → stepWith .engine s = .next t → t.phase = .idle →
    (t.err = 1 ↔ ∃ e, decode s.cmdLast = .error e) ∧
    (t.err = 2 ↔ decode s.cmdLast = .ok .keyexp ∧ ¬ (s.klen.toNat = 16 ∨ s.klen.toNat = 24 ∨ s.klen.toNat = 32)) ∧
    (t.err = 3 ↔ s.keyValid = false ∧
      (decode s.cmdLast = .ok .enc ∨ decode s.cmdLast = .ok .dec ∨ ∃ r, decode s.cmdLast = .ok (.ark r))) ∧
    (t.err = 4 ↔ s.keyValid = true ∧ ∃ r, decode s.cmdLast = .ok (.ark r) ∧ s.ekNr.toNat < r) ∧
    t.err.toNat ≤ 4

/-- R309: an error is precise: the state after it is the state before the command's dispatch step but for ERR, DONE and
PHASE, and for KEYEXP the cleared KEY_VALID, EK_NK and EK_NR. -/
def Obligations.ErrorsArePrecise : Prop :=
  ∀ s t : State, s.phase = .dispatch → stepWith .engine s = .next t → t.phase = .idle → t.err ≠ 0 →
    (decode s.cmdLast ≠ .ok .keyexp → t = { s with err := t.err, done := true, phase := .idle }) ∧
    (decode s.cmdLast = .ok .keyexp →
      t = { s with keyValid := false, ekNk := 0, ekNr := 0, err := t.err, done := true, phase := .idle })

/-- R112: the frame of every command's dispatch step: the input registers, CMD_LAST, OVR and DONE_IE are not written, and of
the results only those the table of R112 names. -/
def Obligations.CommandsWriteOnlyTheirResults : Prop :=
  ∀ (i : Instr) (s t : State), exec i s = .next t →
    t.cmdLast = s.cmdLast ∧ t.klen = s.klen ∧ t.key = s.key ∧ t.gfA = s.gfA ∧ t.gfB = s.gfB ∧ t.ovr = s.ovr ∧
    t.doneIe = s.doneIe ∧ t.ek = s.ek ∧ t.moves = s.moves ∧ t.replies = s.replies ∧ t.draws = s.draws ∧
    (i ≠ .gfmul → t.gfP = s.gfP) ∧
    (i ≠ .keyexp → t.keyValid = s.keyValid ∧ t.ekNk = s.ekNk ∧ t.ekNr = s.ekNr ∧ t.kxI = s.kxI ∧ t.kxNk = s.kxNk ∧
      t.kxNr = s.kxNr) ∧
    (i ≠ .enc → i ≠ .dec → t.rc = s.rc ∧ t.dir = s.dir) ∧
    (i = .nop ∨ i = .keyexp ∨ i = .gfmul ∨ i = .enc ∨ i = .dec → t.st = s.st)

/-! ## Host programs -/

/-- R118 `wait`, with one engine step between two polls (the model's choice, log 6): it ends, with the engine idle and a
STATUS value with BUSY = 0 as its last answer. -/
def Obligations.WaitEndsWhenTheCommandCompletes : Prop :=
  ∀ s : State, Inv s → s.moves = [.wait] →
    ∃ (k : Nat) (t : State) (rest : List Reply), run k s = .next t ∧ t.moves = [] ∧ t.phase = .idle ∧
      t.replies = .data (statusWord t) :: rest ∧ (statusWord t).getLsbD 0 = false

/-- R118 `ldst` then `rdst`, with the engine idle: the state block is S and the four words read are its columns. -/
def Obligations.LdstThenRdstGivesTheBlock : Prop :=
  ∀ (s : State) (b : Block), s.phase = .idle → s.moves = ldst b ++ rdst →
    run 8 s =
      .next { s with
        st := b
        moves := []
        replies :=
          [.data (columnWord b 3), .data (columnWord b 2), .data (columnWord b 1), .data (columnWord b 0),
            .written, .written, .written, .written] ++ s.replies }

/-- R118 `ldkey K` for a key of 16, 24 or 32 bytes, with the engine idle: KLEN is its length, KEYj its words most
significant byte first, and the KEY words above it keep their values (R37). -/
def Obligations.LdkeyLoadsTheKey : Prop :=
  ∀ (s : State) (key : List Byte), s.phase = .idle → s.moves = ldkey key →
    key.length = 16 ∨ key.length = 24 ∨ key.length = 32 →
    ∃ t, run (1 + key.length / 4) s = .next t ∧
      t = { s with klen := BitVec.ofNat 8 key.length, key := t.key, moves := [], replies := t.replies } ∧
      (∀ j, j < key.length / 4 → ∃ b0 b1 b2 b3 : Byte,
        key[4 * j]? = some b0 ∧ key[4 * j + 1]? = some b1 ∧ key[4 * j + 2]? = some b2 ∧ key[4 * j + 3]? = some b3 ∧
        t.key[j]? = some (b0 ++ b1 ++ b2 ++ b3)) ∧
      (∀ j, key.length / 4 ≤ j → t.key[j]? = s.key[j]?)
end

