-- ==== Sys2Proof/Laws/State.lean ====
section
/-! SUPPORT. One lemma per field for each named update of the state. -/

namespace Sys2Proof.Machine

/-! ## finish -/

@[simp] theorem finish_cmdLast (code : Nibble) (s : State) : (finish code s).cmdLast = s.cmdLast := rfl
@[simp] theorem finish_done (code : Nibble) (s : State) : (finish code s).done = true := rfl
@[simp] theorem finish_keyValid (code : Nibble) (s : State) : (finish code s).keyValid = s.keyValid := rfl
@[simp] theorem finish_ovr (code : Nibble) (s : State) : (finish code s).ovr = s.ovr := rfl
@[simp] theorem finish_err (code : Nibble) (s : State) : (finish code s).err = code := rfl
@[simp] theorem finish_ekNr (code : Nibble) (s : State) : (finish code s).ekNr = s.ekNr := rfl
@[simp] theorem finish_ekNk (code : Nibble) (s : State) : (finish code s).ekNk = s.ekNk := rfl
@[simp] theorem finish_doneIe (code : Nibble) (s : State) : (finish code s).doneIe = s.doneIe := rfl
@[simp] theorem finish_klen (code : Nibble) (s : State) : (finish code s).klen = s.klen := rfl
@[simp] theorem finish_key (code : Nibble) (s : State) : (finish code s).key = s.key := rfl
@[simp] theorem finish_st (code : Nibble) (s : State) : (finish code s).st = s.st := rfl
@[simp] theorem finish_gfA (code : Nibble) (s : State) : (finish code s).gfA = s.gfA := rfl
@[simp] theorem finish_gfB (code : Nibble) (s : State) : (finish code s).gfB = s.gfB := rfl
@[simp] theorem finish_gfP (code : Nibble) (s : State) : (finish code s).gfP = s.gfP := rfl
@[simp] theorem finish_ek (code : Nibble) (s : State) : (finish code s).ek = s.ek := rfl
@[simp] theorem finish_phase (code : Nibble) (s : State) : (finish code s).phase = .idle := rfl
@[simp] theorem finish_rc (code : Nibble) (s : State) : (finish code s).rc = s.rc := rfl
@[simp] theorem finish_dir (code : Nibble) (s : State) : (finish code s).dir = s.dir := rfl
@[simp] theorem finish_kxI (code : Nibble) (s : State) : (finish code s).kxI = s.kxI := rfl
@[simp] theorem finish_kxNk (code : Nibble) (s : State) : (finish code s).kxNk = s.kxNk := rfl
@[simp] theorem finish_kxNr (code : Nibble) (s : State) : (finish code s).kxNr = s.kxNr := rfl
@[simp] theorem finish_moves (code : Nibble) (s : State) : (finish code s).moves = s.moves := rfl
@[simp] theorem finish_replies (code : Nibble) (s : State) : (finish code s).replies = s.replies := rfl
@[simp] theorem finish_draws (code : Nibble) (s : State) : (finish code s).draws = s.draws := rfl

/-! ## accept -/

@[simp] theorem accept_cmdLast (v : Word) (s : State) : (accept v s).cmdLast = v := rfl
@[simp] theorem accept_done (v : Word) (s : State) : (accept v s).done = false := rfl
@[simp] theorem accept_keyValid (v : Word) (s : State) : (accept v s).keyValid = s.keyValid := rfl
@[simp] theorem accept_ovr (v : Word) (s : State) : (accept v s).ovr = s.ovr := rfl
@[simp] theorem accept_err (v : Word) (s : State) : (accept v s).err = 0 := rfl
@[simp] theorem accept_ekNr (v : Word) (s : State) : (accept v s).ekNr = s.ekNr := rfl
@[simp] theorem accept_ekNk (v : Word) (s : State) : (accept v s).ekNk = s.ekNk := rfl
@[simp] theorem accept_doneIe (v : Word) (s : State) : (accept v s).doneIe = s.doneIe := rfl
@[simp] theorem accept_klen (v : Word) (s : State) : (accept v s).klen = s.klen := rfl
@[simp] theorem accept_key (v : Word) (s : State) : (accept v s).key = s.key := rfl
@[simp] theorem accept_st (v : Word) (s : State) : (accept v s).st = s.st := rfl
@[simp] theorem accept_gfA (v : Word) (s : State) : (accept v s).gfA = s.gfA := rfl
@[simp] theorem accept_gfB (v : Word) (s : State) : (accept v s).gfB = s.gfB := rfl
@[simp] theorem accept_gfP (v : Word) (s : State) : (accept v s).gfP = s.gfP := rfl
@[simp] theorem accept_ek (v : Word) (s : State) : (accept v s).ek = s.ek := rfl
@[simp] theorem accept_phase (v : Word) (s : State) : (accept v s).phase = .dispatch := rfl
@[simp] theorem accept_rc (v : Word) (s : State) : (accept v s).rc = s.rc := rfl
@[simp] theorem accept_dir (v : Word) (s : State) : (accept v s).dir = s.dir := rfl
@[simp] theorem accept_kxI (v : Word) (s : State) : (accept v s).kxI = s.kxI := rfl
@[simp] theorem accept_kxNk (v : Word) (s : State) : (accept v s).kxNk = s.kxNk := rfl
@[simp] theorem accept_kxNr (v : Word) (s : State) : (accept v s).kxNr = s.kxNr := rfl
@[simp] theorem accept_moves (v : Word) (s : State) : (accept v s).moves = s.moves := rfl
@[simp] theorem accept_replies (v : Word) (s : State) : (accept v s).replies = s.replies := rfl
@[simp] theorem accept_draws (v : Word) (s : State) : (accept v s).draws = s.draws := rfl

/-! ## answer -/

@[simp] theorem answer_cmdLast (r : Reply) (s : State) : (answer r s).cmdLast = s.cmdLast := rfl
@[simp] theorem answer_done (r : Reply) (s : State) : (answer r s).done = s.done := rfl
@[simp] theorem answer_keyValid (r : Reply) (s : State) : (answer r s).keyValid = s.keyValid := rfl
@[simp] theorem answer_ovr (r : Reply) (s : State) : (answer r s).ovr = s.ovr := rfl
@[simp] theorem answer_err (r : Reply) (s : State) : (answer r s).err = s.err := rfl
@[simp] theorem answer_ekNr (r : Reply) (s : State) : (answer r s).ekNr = s.ekNr := rfl
@[simp] theorem answer_ekNk (r : Reply) (s : State) : (answer r s).ekNk = s.ekNk := rfl
@[simp] theorem answer_doneIe (r : Reply) (s : State) : (answer r s).doneIe = s.doneIe := rfl
@[simp] theorem answer_klen (r : Reply) (s : State) : (answer r s).klen = s.klen := rfl
@[simp] theorem answer_key (r : Reply) (s : State) : (answer r s).key = s.key := rfl
@[simp] theorem answer_st (r : Reply) (s : State) : (answer r s).st = s.st := rfl
@[simp] theorem answer_gfA (r : Reply) (s : State) : (answer r s).gfA = s.gfA := rfl
@[simp] theorem answer_gfB (r : Reply) (s : State) : (answer r s).gfB = s.gfB := rfl
@[simp] theorem answer_gfP (r : Reply) (s : State) : (answer r s).gfP = s.gfP := rfl
@[simp] theorem answer_ek (r : Reply) (s : State) : (answer r s).ek = s.ek := rfl
@[simp] theorem answer_phase (r : Reply) (s : State) : (answer r s).phase = s.phase := rfl
@[simp] theorem answer_rc (r : Reply) (s : State) : (answer r s).rc = s.rc := rfl
@[simp] theorem answer_dir (r : Reply) (s : State) : (answer r s).dir = s.dir := rfl
@[simp] theorem answer_kxI (r : Reply) (s : State) : (answer r s).kxI = s.kxI := rfl
@[simp] theorem answer_kxNk (r : Reply) (s : State) : (answer r s).kxNk = s.kxNk := rfl
@[simp] theorem answer_kxNr (r : Reply) (s : State) : (answer r s).kxNr = s.kxNr := rfl
@[simp] theorem answer_moves (r : Reply) (s : State) : (answer r s).moves = s.moves := rfl
@[simp] theorem answer_replies (r : Reply) (s : State) : (answer r s).replies = r :: s.replies := rfl
@[simp] theorem answer_draws (r : Reply) (s : State) : (answer r s).draws = s.draws := rfl

/-! ## clearStatus -/

@[simp] theorem clearStatus_cmdLast (v : Word) (s : State) : (clearStatus v s).cmdLast = s.cmdLast := rfl
@[simp] theorem clearStatus_done (v : Word) (s : State) : (clearStatus v s).done = (s.done && !v.getLsbD 1) := rfl
@[simp] theorem clearStatus_keyValid (v : Word) (s : State) : (clearStatus v s).keyValid = s.keyValid := rfl
@[simp] theorem clearStatus_ovr (v : Word) (s : State) : (clearStatus v s).ovr = (s.ovr && !v.getLsbD 3) := rfl
@[simp] theorem clearStatus_err (v : Word) (s : State) : (clearStatus v s).err = s.err := rfl
@[simp] theorem clearStatus_ekNr (v : Word) (s : State) : (clearStatus v s).ekNr = s.ekNr := rfl
@[simp] theorem clearStatus_ekNk (v : Word) (s : State) : (clearStatus v s).ekNk = s.ekNk := rfl
@[simp] theorem clearStatus_doneIe (v : Word) (s : State) : (clearStatus v s).doneIe = s.doneIe := rfl
@[simp] theorem clearStatus_klen (v : Word) (s : State) : (clearStatus v s).klen = s.klen := rfl
@[simp] theorem clearStatus_key (v : Word) (s : State) : (clearStatus v s).key = s.key := rfl
@[simp] theorem clearStatus_st (v : Word) (s : State) : (clearStatus v s).st = s.st := rfl
@[simp] theorem clearStatus_gfA (v : Word) (s : State) : (clearStatus v s).gfA = s.gfA := rfl
@[simp] theorem clearStatus_gfB (v : Word) (s : State) : (clearStatus v s).gfB = s.gfB := rfl
@[simp] theorem clearStatus_gfP (v : Word) (s : State) : (clearStatus v s).gfP = s.gfP := rfl
@[simp] theorem clearStatus_ek (v : Word) (s : State) : (clearStatus v s).ek = s.ek := rfl
@[simp] theorem clearStatus_phase (v : Word) (s : State) : (clearStatus v s).phase = s.phase := rfl
@[simp] theorem clearStatus_rc (v : Word) (s : State) : (clearStatus v s).rc = s.rc := rfl
@[simp] theorem clearStatus_dir (v : Word) (s : State) : (clearStatus v s).dir = s.dir := rfl
@[simp] theorem clearStatus_kxI (v : Word) (s : State) : (clearStatus v s).kxI = s.kxI := rfl
@[simp] theorem clearStatus_kxNk (v : Word) (s : State) : (clearStatus v s).kxNk = s.kxNk := rfl
@[simp] theorem clearStatus_kxNr (v : Word) (s : State) : (clearStatus v s).kxNr = s.kxNr := rfl
@[simp] theorem clearStatus_moves (v : Word) (s : State) : (clearStatus v s).moves = s.moves := rfl
@[simp] theorem clearStatus_replies (v : Word) (s : State) : (clearStatus v s).replies = s.replies := rfl
@[simp] theorem clearStatus_draws (v : Word) (s : State) : (clearStatus v s).draws = s.draws := rfl

/-! ## resetAction -/

@[simp] theorem resetAction_cmdLast (s : State) : (resetAction s).cmdLast = State.reset.cmdLast := rfl
@[simp] theorem resetAction_done (s : State) : (resetAction s).done = State.reset.done := rfl
@[simp] theorem resetAction_keyValid (s : State) : (resetAction s).keyValid = State.reset.keyValid := rfl
@[simp] theorem resetAction_ovr (s : State) : (resetAction s).ovr = State.reset.ovr := rfl
@[simp] theorem resetAction_err (s : State) : (resetAction s).err = State.reset.err := rfl
@[simp] theorem resetAction_ekNr (s : State) : (resetAction s).ekNr = State.reset.ekNr := rfl
@[simp] theorem resetAction_ekNk (s : State) : (resetAction s).ekNk = State.reset.ekNk := rfl
@[simp] theorem resetAction_doneIe (s : State) : (resetAction s).doneIe = State.reset.doneIe := rfl
@[simp] theorem resetAction_klen (s : State) : (resetAction s).klen = State.reset.klen := rfl
@[simp] theorem resetAction_key (s : State) : (resetAction s).key = State.reset.key := rfl
@[simp] theorem resetAction_st (s : State) : (resetAction s).st = State.reset.st := rfl
@[simp] theorem resetAction_gfA (s : State) : (resetAction s).gfA = State.reset.gfA := rfl
@[simp] theorem resetAction_gfB (s : State) : (resetAction s).gfB = State.reset.gfB := rfl
@[simp] theorem resetAction_gfP (s : State) : (resetAction s).gfP = State.reset.gfP := rfl
@[simp] theorem resetAction_ek (s : State) : (resetAction s).ek = State.reset.ek := rfl
@[simp] theorem resetAction_phase (s : State) : (resetAction s).phase = State.reset.phase := rfl
@[simp] theorem resetAction_rc (s : State) : (resetAction s).rc = State.reset.rc := rfl
@[simp] theorem resetAction_dir (s : State) : (resetAction s).dir = State.reset.dir := rfl
@[simp] theorem resetAction_kxI (s : State) : (resetAction s).kxI = State.reset.kxI := rfl
@[simp] theorem resetAction_kxNk (s : State) : (resetAction s).kxNk = State.reset.kxNk := rfl
@[simp] theorem resetAction_kxNr (s : State) : (resetAction s).kxNr = State.reset.kxNr := rfl
@[simp] theorem resetAction_moves (s : State) : (resetAction s).moves = s.moves := rfl
@[simp] theorem resetAction_replies (s : State) : (resetAction s).replies = s.replies := rfl
@[simp] theorem resetAction_draws (s : State) : (resetAction s).draws = s.draws := rfl

/-! ## Reading the machine's own words -/

theorem busy_iff (s : State) : busy s = true ↔ s.phase ≠ .idle := by simp [busy]

theorem not_busy_iff (s : State) : busy s = false ↔ s.phase = .idle := by simp [busy]

@[simp] theorem busy_finish (code : Nibble) (s : State) : busy (finish code s) = false := rfl

@[simp] theorem busy_accept (v : Word) (s : State) : busy (accept v s) = true := rfl

@[simp] theorem busy_answer (r : Reply) (s : State) : busy (answer r s) = busy s := rfl

end Sys2Proof.Machine
end

