-- ==== Sys2Proof/Laws/Ops.lean ====
section
/-! SUPPORT. One lemma per shared operation: everything it can do. -/

namespace Sys2Proof.Machine

/-- Every offset of the window is decoded as itself. -/
theorem windowOffset_base {off : Nat} (h : off < 0x200) : windowOffset (Config.aesBase + off) = some off := by
  rw [windowOffset, if_pos ⟨Nat.le_add_right _ _, Nat.add_lt_add_left h _⟩, Nat.add_sub_cancel_left]

theorem windowOffset_eq_some {addr off : Nat} (h : windowOffset addr = some off) :
    addr = Config.aesBase + off ∧ off < 0x200 := by
  simp only [windowOffset] at h
  split at h
  · simp only [Option.some.injEq] at h
    omega
  · simp at h

theorem windowOffset_eq_none {addr : Nat} :
    windowOffset addr = none ↔ ¬ (Config.aesBase ≤ addr ∧ addr < Config.aesBase + 0x200) := by
  simp only [windowOffset]
  split <;> simp_all

theorem admitted_iff (off bytes : Nat) : admitted off bytes = true ↔ bytes = 4 ∧ off % 4 = 0 := by simp [admitted]

/-- An access whose offset the engine decodes and the bus rules admit. -/
theorem busAccess_admitted {a : Access} {off : Nat} (s : State) (h : windowOffset a.addr = some off) (hb : a.bytes = 4)
    (ho : off % 4 = 0) :
    busAccess a s = match a.kind with
      | .read => busRead (regAt off) s
      | .write v => busWrite (regAt off) v s := by
  cases hk : a.kind <;> simp [busAccess, h, admitted, hb, ho, hk]

/-- A read answers one value, drawn or defined, and changes nothing but the draw counter. -/
theorem busRead_cases (reg : Reg) (s : State) :
    (busy s = true ∧ drawnWhileBusy reg = true ∧
      busRead reg s = { s with replies := .data (Config.draw s.draws) :: s.replies, draws := s.draws + 1 }) ∨
    ((busy s = false ∨ drawnWhileBusy reg = false) ∧
      busRead reg s = { s with replies := .data (readReg s reg) :: s.replies }) := by
  cases hb : busy s <;> cases hd : drawnWhileBusy reg <;> simp [busRead, hb, hd, answer]

/-- A write is dropped with OVR set, or takes effect. -/
theorem busWrite_cases (reg : Reg) (v : Word) (s : State) :
    (busy s = true ∧ writableWhileBusy reg = false ∧
      busWrite reg v s = { s with ovr := true, replies := .written :: s.replies }) ∨
    ((busy s = false ∨ writableWhileBusy reg = true) ∧ busWrite reg v s = answer .written (writeReg s v reg)) := by
  cases hb : busy s <;> cases hw : writableWhileBusy reg <;> simp [busWrite, hb, hw, answer]

/-- Every bus access is one of: not decoded, refused by the bus, a read, a write. -/
theorem busAccess_cases (a : Access) (s : State) :
    (windowOffset a.addr = none ∧ busAccess a s = answer .notDecoded s) ∨
    ∃ off, windowOffset a.addr = some off ∧
      ((¬ (a.bytes = 4 ∧ off % 4 = 0) ∧ busAccess a s = answer (.busError Config.busError) s) ∨
        (a.bytes = 4 ∧ off % 4 = 0 ∧ a.kind = .read ∧ busAccess a s = busRead (regAt off) s) ∨
        ∃ v, a.bytes = 4 ∧ off % 4 = 0 ∧ a.kind = .write v ∧ busAccess a s = busWrite (regAt off) v s) := by
  cases hw : windowOffset a.addr with
  | none => exact .inl ⟨rfl, by simp [busAccess, hw]⟩
  | some off =>
    refine .inr ⟨off, rfl, ?_⟩
    by_cases had : a.bytes = 4 ∧ off % 4 = 0
    · cases hk : a.kind with
      | read => exact .inr (.inl ⟨had.1, had.2, rfl, by simp [busAccess, hw, admitted, had, hk]⟩)
      | write v => exact .inr (.inr ⟨v, had.1, had.2, rfl, by simp [busAccess, hw, admitted, had, hk]⟩)
    · exact .inl ⟨had, by simp [busAccess, hw, admitted, had]⟩

/-- ENC and DEC start the sequencer or raise ERR_NOKEY. -/
theorem startCipher_cases (dir : Direction) (s : State) :
    (s.keyValid = false ∧ startCipher dir s = .next (finish 3 s)) ∨
    (s.keyValid = true ∧ startCipher dir s = .next { s with dir := dir, rc := 0, phase := .cipher }) := by
  cases hk : s.keyValid <;> simp [startCipher, hk, raiseError, errorCode]

/-- ARK raises ERR_NOKEY, raises ERR_RANGE, adds the round key, or stops outside the store. -/
theorem execArk_cases (r : Nat) (s : State) :
    (s.keyValid = false ∧ execArk r s = .next (finish 3 s)) ∨
    (s.keyValid = true ∧ s.ekNr.toNat < r ∧ execArk r s = .next (finish 4 s)) ∨
    (s.keyValid = true ∧ r ≤ s.ekNr.toNat ∧ r ≤ 14 ∧
      execArk r s = .next (finish 0 { s with st := addRoundKey s.ek s.st r })) ∨
    (s.keyValid = true ∧ r ≤ s.ekNr.toNat ∧ 14 < r ∧ execArk r s = .fault .roundKeyOutsideStore) := by
  by_cases hk : s.keyValid = false
  · exact .inl ⟨hk, by simp [execArk, hk, raiseError, errorCode]⟩
  · have hk' : s.keyValid = true := by simpa using hk
    refine .inr ?_
    by_cases hr : s.ekNr.toNat < r
    · exact .inl ⟨hk', hr, by simp [execArk, hk', hr, raiseError, errorCode]⟩
    · refine .inr ?_
      by_cases h14 : r ≤ 14
      · refine .inl ⟨hk', by omega, h14, ?_⟩
        have : roundInStore r = true := by simp [roundInStore]; omega
        simp [execArk, hk', hr, this, transformState, complete]
      · refine .inr ⟨hk', by omega, by omega, ?_⟩
        have : roundInStore r = false := by simp [roundInStore]; omega
        simp [execArk, hk', hr, this]

/-- KEYEXP raises ERR_KEYLEN or starts the expander; the old schedule is invalid either way. -/
theorem execKeyexp_cases (s : State) :
    (legalKlen s.klen = false ∧
      execKeyexp s = .next (finish 2 { s with keyValid := false, ekNk := 0, ekNr := 0 })) ∨
    (legalKlen s.klen = true ∧
      execKeyexp s = .next { s with
        keyValid := false
        ekNk := 0
        ekNr := 0
        kxNk := BitVec.ofNat 4 (nkOf s.klen)
        kxNr := BitVec.ofNat 4 (nrOf (nkOf s.klen))
        kxI := 0
        phase := .keyexp }) := by
  cases hl : legalKlen s.klen <;> simp [execKeyexp, hl, raiseError, errorCode]

theorem legalKlen_iff (k : Byte) : legalKlen k = true ↔ k.toNat = 16 ∨ k.toNat = 24 ∨ k.toNat = 32 := by
  have h : ∀ n : Nat, n < 256 → (k = BitVec.ofNat 8 n ↔ k.toNat = n) := by
    intro n hn
    rw [← BitVec.toNat_inj, BitVec.toNat_ofNat, Nat.mod_eq_of_lt hn]
  simp [legalKlen, ← h 16 (by decide), ← h 24 (by decide), ← h 32 (by decide)]

/-- The expander has written every word of the key, of the schedule and of the store. -/
theorem expanderDone_iff (s : State) :
    expanderDone s = true ↔
      s.kxNk.toNat ≤ s.kxI.toNat ∧ 4 * (s.kxNr.toNat + 1) ≤ s.kxI.toNat ∧ 60 ≤ s.kxI.toNat := by
  rw [expanderDone, decide_eq_true_eq, schedWords]

theorem roundInStore_iff (r : Nat) : roundInStore r = true ↔ r ≤ 14 := by
  rw [roundInStore, decide_eq_true_eq]
  omega

/-- What no register write touches. -/
theorem writeReg_frame (s : State) (v : Word) (r : Reg) :
    (writeReg s v r).keyValid = s.keyValid ∧ (writeReg s v r).ekNr = s.ekNr ∧ (writeReg s v r).ekNk = s.ekNk ∧
      (writeReg s v r).gfP = s.gfP ∧ (writeReg s v r).ek = s.ek ∧ (writeReg s v r).rc = s.rc ∧
      (writeReg s v r).dir = s.dir ∧ (writeReg s v r).kxI = s.kxI ∧ (writeReg s v r).kxNk = s.kxNk ∧
      (writeReg s v r).kxNr = s.kxNr ∧ (writeReg s v r).moves = s.moves ∧ (writeReg s v r).replies = s.replies ∧
      (writeReg s v r).draws = s.draws := by
  cases r <;> simp [writeReg]

/-- The expander completes, writes one word, or stops outside a store. -/
theorem stepKeyexp_cases (s : State) :
    (expanderDone s = true ∧
      stepKeyexp s = .next (finish 0 { s with ekNk := s.kxNk, ekNr := s.kxNr, keyValid := true })) ∨
    (∃ w, ∃ h : s.kxI.toNat < 60, expanderDone s = false ∧ expanderWord s = some w ∧
      stepKeyexp s = .next { s with ek := s.ek.set s.kxI.toNat w h, kxI := s.kxI + 1 }) ∨
    (expanderDone s = false ∧ (expanderWord s = none ∨ 60 ≤ s.kxI.toNat) ∧
      stepKeyexp s = .fault .expanderOutsideStore) := by
  cases hd : expanderDone s with
  | true => exact .inl ⟨rfl, by simp [stepKeyexp, hd, complete]⟩
  | false =>
    refine .inr ?_
    cases hw : expanderWord s with
    | none => exact .inr ⟨rfl, .inl rfl, by simp [stepKeyexp, hd, hw]⟩
    | some w =>
      by_cases h : s.kxI.toNat < 60
      · exact .inl ⟨w, h, rfl, rfl, by simp [stepKeyexp, hd, hw, h]⟩
      · exact .inr ⟨rfl, .inr (by omega), by simp [stepKeyexp, hd, hw, h]⟩

/-- The sequencer computes one round, the last or not, or stops outside the store. -/
theorem stepCipher_cases (s : State) :
    (s.rc = s.ekNr ∧ s.ekNr.toNat ≤ 14 ∧
      stepCipher s = .next (finish 0 { s with st := roundFn s.dir s.rc.toNat s.ekNr.toNat s.ek s.st })) ∨
    (s.rc.toNat < s.ekNr.toNat ∧ s.ekNr.toNat ≤ 14 ∧
      stepCipher s = .next { s with st := roundFn s.dir s.rc.toNat s.ekNr.toNat s.ek s.st, rc := s.rc + 1 }) ∨
    ((s.ekNr.toNat < s.rc.toNat ∨ 14 < s.ekNr.toNat) ∧ stepCipher s = .fault .roundKeyOutsideStore) := by
  by_cases hg : s.rc.toNat ≤ s.ekNr.toNat ∧ s.ekNr.toNat ≤ 14
  · have hg' : (decide (s.rc.toNat ≤ s.ekNr.toNat) && roundInStore s.ekNr.toNat) = true := by
      simp [roundInStore]; omega
    by_cases he : s.rc = s.ekNr
    · exact .inl ⟨he, hg.2, by rw [stepCipher, if_pos hg']; simp [he, complete]⟩
    · refine .inr (.inl ⟨?_, hg.2, by rw [stepCipher, if_pos hg']; simp [he]⟩)
      have : s.rc.toNat ≠ s.ekNr.toNat := fun h => he (BitVec.eq_of_toNat_eq h)
      omega
  · refine .inr (.inr ⟨by omega, ?_⟩)
    have hg' : ¬ (decide (s.rc.toNat ≤ s.ekNr.toNat) && roundInStore s.ekNr.toNat) = true := by
      simp [roundInStore]; omega
    rw [stepCipher, if_neg hg']

end Sys2Proof.Machine
end

