-- ==== Sys2Proof/Laws/Engine.lean ====
section
/-! SUPPORT. What the engine's step, a move and a run can do. -/

namespace Sys2Proof.Machine

/-- Whose move it is, and what it does. -/
theorem step_cases (s : State) :
    (s.moves = [] ∧ step s = engineStep s) ∨
    (∃ ms, s.moves = .engine :: ms ∧ step s = engineStep { s with moves := ms }) ∨
    (∃ a ms, s.moves = .access a :: ms ∧ step s = .next (busAccess a { s with moves := ms })) ∨
    (∃ ms, s.moves = .wait :: ms ∧ step s = .next (waitTurn { s with moves := ms })) ∨
    (∃ ms, s.moves = .reset :: ms ∧ step s = .next (resetAction { s with moves := ms })) := by
  rcases hm : s.moves with _ | ⟨_ | _ | _ | _, ms⟩ <;> simp [step, nextMove, hm]

@[simp] theorem stepWith_engine (s : State) : stepWith .engine s = engineStep s := rfl

@[simp] theorem stepWith_access (a : Access) (s : State) : stepWith (.access a) s = .next (busAccess a s) := rfl

@[simp] theorem stepWith_wait (s : State) : stepWith .wait s = .next (waitTurn s) := rfl

@[simp] theorem stepWith_reset (s : State) : stepWith .reset s = .next (resetAction s) := rfl

/-- `wr` reaches the register its offset names. -/
theorem stepWith_wr {off : Nat} (v : Word) (s : State) (h : off < 0x200) (h4 : off % 4 = 0) :
    stepWith (HostProgram.wr off v) s = .next (busWrite (regAt off) v s) := by
  have hw := windowOffset_base h
  exact congrArg Host.Outcome.next (busAccess_admitted s hw rfl h4)

/-- `rd` reaches the register its offset names. -/
theorem stepWith_rd {off : Nat} (s : State) (h : off < 0x200) (h4 : off % 4 = 0) :
    stepWith (HostProgram.rd off) s = .next (busRead (regAt off) s) := by
  have hw := windowOffset_base h
  exact congrArg Host.Outcome.next (busAccess_admitted s hw rfl h4)

/-- The engine's step by phase. -/
theorem engineStep_cases (s : State) :
    (s.phase = .idle ∧ engineStep s = .next s) ∨
    (s.phase = .dispatch ∧ ∃ i, decode s.cmdLast = .ok i ∧ engineStep s = exec i s) ∨
    (s.phase = .dispatch ∧ ∃ e, decode s.cmdLast = .error e ∧ engineStep s = .next (finish 1 s)) ∨
    (s.phase = .keyexp ∧ engineStep s = stepKeyexp s) ∨
    (s.phase = .cipher ∧ engineStep s = stepCipher s) := by
  cases hp : s.phase with
  | idle => exact .inl ⟨rfl, by simp [engineStep, hp]⟩
  | dispatch =>
    cases hd : decode s.cmdLast with
    | ok i => exact .inr (.inl ⟨rfl, i, rfl, by simp [engineStep, hp, stepDispatch, hd]⟩)
    | error e =>
      exact .inr (.inr (.inl ⟨rfl, e, rfl, by simp [engineStep, hp, stepDispatch, hd, raiseError, errorCode]⟩))
  | keyexp => exact .inr (.inr (.inr (.inl ⟨rfl, by simp [engineStep, hp]⟩)))
  | cipher => exact .inr (.inr (.inr (.inr ⟨rfl, by simp [engineStep, hp]⟩)))

@[simp] theorem run_zero (s : State) : run 0 s = .next s := rfl

theorem run_succ (k : Nat) (s : State) :
    run (k + 1) s = match step s with
      | .next t => run k t
      | .fault r => .fault r
      | .refused r => .refused r := by
  have hc : Sys2Proof.core.step s = step s := rfl
  simp only [run, Host.Core.run, hc]
  cases step s <;> rfl

/-- One step that goes on, and then k more. -/
theorem run_succ_of_next {s t : State} (k : Nat) (h : step s = .next t) : run (k + 1) s = run k t := by
  rw [run_succ, h]

end Sys2Proof.Machine
end

