-- ==== Sys2Proof/Laws/PerInstr.lean ====
section
/-! SUPPORT. Facts stated command by command. -/

namespace Sys2Proof.Laws.EncodedFields

/-- The encoded word of a well-formed command has RSVD = 0 and its opcode in OP (R110). -/
def Statement (i : Instr) : Prop := i.wellFormed = true → rsvdField (encode i) = 0 ∧ opField (encode i) = opcode i

theorem nop : Statement .nop := fun _ => by decide
theorem keyexp : Statement .keyexp := fun _ => by decide
theorem enc : Statement .enc := fun _ => by decide
theorem dec : Statement .dec := fun _ => by decide

theorem ark (round : Nat) : Statement (.ark round) := by
  intro h
  have h : round < 16 := by simpa [Instr.wellFormed] using h
  have all : ∀ r : Fin 16, rsvdField (encode (.ark r.val)) = 0 ∧ opField (encode (.ark r.val)) = 0x04 := by decide
  exact all ⟨round, h⟩

theorem sb : Statement .sb := fun _ => by decide
theorem isb : Statement .isb := fun _ => by decide
theorem sr : Statement .sr := fun _ => by decide
theorem isr : Statement .isr := fun _ => by decide
theorem mc : Statement .mc := fun _ => by decide
theorem imc : Statement .imc := fun _ => by decide
theorem gfmul : Statement .gfmul := fun _ => by decide

end Sys2Proof.Laws.EncodedFields
end

