-- ==== Sys2Proof/Tests/Slice0.lean ====
section
/-! SUPPORT. Tests: expected values are the spec's (spec/95_test_vectors.md, and the examples of the rules named); and a
witness for the hypotheses of every statement that has some. -/

namespace Sys2Proof.Tests

open Sys2Proof Sys2Proof.Machine Sys2Proof.Machine.HostProgram

/-! ## Helpers -/

/-- The state a step goes on with. -/
def stateOf : Result → Option State
  | .next t => some t
  | .fault _ => none
  | .refused _ => none

/-- After reset, with the state block given by its hex digits. -/
def withBlock (digits : Nat) : State := { State.reset with st := blockOfHex digits }

/-- After reset, with a valid schedule of Nr = nr and round key r given by four words, all other words 0. -/
def withRoundKey (nk nr : Nibble) (r : Fin 15) (k0 k1 k2 k3 : Word) (digits : Nat) : State :=
  { State.reset with
    st := blockOfHex digits
    keyValid := true
    ekNk := nk
    ekNr := nr
    ek := (((State.reset.ek.set (4 * r.val) k0).set (4 * r.val + 1) k1).set (4 * r.val + 2) k2).set (4 * r.val + 3) k3 }

/-- After reset, a command word accepted. -/
def accepted (w : Word) : State := accept w State.reset

/-- After reset, the AES-128 expander running on an all-zero key, at word i. -/
def expanding (i : BitVec 6) : State := { State.reset with phase := .keyexp, kxNk := 4, kxNr := 10, kxI := i }

/-- An all-zero AES-128 schedule valid, and the sequencer running at round rc. -/
def ciphering (dir : Direction) (rc : Nibble) : State :=
  { State.reset with keyValid := true, ekNk := 4, ekNr := 10, phase := .cipher, dir := dir, rc := rc }

/-! ## Well-formedness: the one check there is refuses the ill-formed term -/

theorem test_ark_16_is_ill_formed : Instr.wellFormed (.ark 16) = false := by decide
theorem test_ark_15_is_well_formed : Instr.wellFormed (.ark 15) = true := by decide

/-! ## Decoding: words written out from R110, R113, R116 and the corner words of R287 -/

theorem test_decode_nop : decode 0b00000000000000000000000000000000#32 = .ok .nop := by rfl
theorem test_decode_keyexp : decode 0b00000000000000000000000000000001#32 = .ok .keyexp := by rfl
theorem test_decode_enc : decode 0b00000000000000000000000000000010#32 = .ok .enc := by rfl
theorem test_decode_dec : decode 0b00000000000000000000000000000011#32 = .ok .dec := by rfl
theorem test_decode_ark_10 : decode 0b00000000000000000000101000000100#32 = .ok (.ark 10) := by rfl
theorem test_decode_ark_15 : decode 0b00000000000000000000111100000100#32 = .ok (.ark 15) := by rfl
theorem test_decode_sb : decode 0b00000000000000000000000000000101#32 = .ok .sb := by rfl
theorem test_decode_isb : decode 0b00000000000000000000000000000110#32 = .ok .isb := by rfl
theorem test_decode_sr : decode 0b00000000000000000000000000000111#32 = .ok .sr := by rfl
theorem test_decode_isr : decode 0b00000000000000000000000000001000#32 = .ok .isr := by rfl
theorem test_decode_mc : decode 0b00000000000000000000000000001001#32 = .ok .mc := by rfl
theorem test_decode_imc : decode 0b00000000000000000000000000001010#32 = .ok .imc := by rfl
theorem test_decode_gfmul : decode 0b00000000000000000000000000001011#32 = .ok .gfmul := by rfl
theorem test_decode_first_unassigned : decode 0x0000000C#32 = .error .unassignedOpcode := by rfl
theorem test_decode_last_unassigned : decode 0x000000FF#32 = .error .unassignedOpcode := by rfl
theorem test_decode_reserved_bit_12 : decode 0x00001000#32 = .error .reservedField := by rfl
theorem test_decode_enc_with_bit_31 : decode 0x80000002#32 = .error .reservedField := by rfl
theorem test_decode_enc_with_round : decode 0x00000102#32 = .error .roundField := by rfl
theorem test_encode_ark_10 : encode (.ark 10) = 0x00000A04 := by decide
theorem test_decode_table_word : decodeTableWord 32 0xB04 = some (.ark 11) := by decide

/-! ## The register map at the ends of its ranges (R30) -/

theorem test_regAt_key :
    regAt 0x010 = .key 0 ∧ regAt 0x02C = .key 7 ∧ regAt 0x030 = .state 0 ∧ regAt 0x03C = .state 3 := by decide
theorem test_regAt_reserved :
    regAt 0x048 = .reserved ∧ regAt 0x0FC = .reserved ∧ regAt 0x1F0 = .reserved ∧ regAt 0x1FC = .reserved := by decide
theorem test_regAt_expkey : regAt 0x100 = .expkey 0 ∧ regAt 0x1EC = .expkey 59 := by decide
theorem test_regAt_gf : regAt 0x040 = .gfop ∧ regAt 0x044 = .gfres := by decide

/-! ## STATUS (R33; section 3: 0x004A0006 means EK_NK 4, EK_NR 10, KEY_VALID 1, DONE 1) -/

theorem test_status_word :
    statusWord { State.reset with ekNk := 4, ekNr := 10, keyValid := true, done := true } = 0x004A0006 := by decide
/-- V-CTL-2: an illegal word ends with STATUS 0x00000102. -/
theorem test_illegal_word_status :
    (stateOf (engineStep (accepted 0x0000000C))).map statusWord = some 0x00000102 := by decide
/-- V-CTL-5: wr STATUS 2 on 0x302 leaves 0x300. -/
theorem test_clear_done :
    statusWord (clearStatus 0x00000002 { State.reset with done := true, err := 3 }) = 0x00000300 := by decide
/-- V-CTL-16: GFOP keeps bits 15:0. -/
theorem test_gfop_reserved_bits : readReg (writeReg State.reset 0xFFFF08AF .gfop) .gfop = 0x000008AF := by decide
/-- V-KX-5: KEYLEN keeps bits 7:0. -/
theorem test_keylen_reserved_bits : (writeReg State.reset 0x00000110 .keylen).klen = 0x10 := by decide
/-- P1.07: STATE0 holds ST[0] in bits 31:24. -/
theorem test_state_column :
    columnWord (setColumn (blockOfHex 0) 1 0x44556677) 1 = 0x44556677 ∧
      (setColumn (blockOfHex 0) 1 0x44556677)[4] = 0x44 := by decide
/-- V-CTL-7: a STATE0 write while busy is dropped and sets OVR. -/
theorem test_busy_write_dropped :
    (busWrite (.state 0) 0x12345678 (accepted 1)).st = State.reset.st ∧
      (busWrite (.state 0) 0x12345678 (accepted 1)).ovr = true := by decide

/-! ## One step of each command -/

/-- V-CTL-1, V-CTL-6. -/
theorem test_nop :
    (stateOf (exec .nop { accepted 0 with err := 2 })).map statusWord = some 0x00000002 := by decide
/-- V-GF-1, the source's example S9. -/
theorem test_gfmul : (stateOf (exec .gfmul { State.reset with gfA := 0xAF, gfB := 0x08 })).map (·.gfP) = some 0x0F := by
  decide
/-- V-GF-13. -/
theorem test_gfmul_largest_square :
    (stateOf (exec .gfmul { State.reset with gfA := 0xFF, gfB := 0xFF })).map (·.gfP) = some 0x13 := by decide
/-- V-SB-3. -/
theorem test_sb :
    (stateOf (exec .sb (withBlock 0x00112233445566778899aabbccddeeff))).map (·.st) =
      some (blockOfHex 0x638293c31bfc33f5c4eeacea4bc12816) := by decide
/-- V-SB-8. -/
theorem test_isb :
    (stateOf (exec .isb (withBlock 0x00112233445566778899aabbccddeeff))).map (·.st) =
      some (blockOfHex 0x52e3946686edd30297f962fe27c9997d) := by decide
/-- V-SR-1. -/
theorem test_sr :
    (stateOf (exec .sr (withBlock 0x000102030405060708090a0b0c0d0e0f))).map (·.st) =
      some (blockOfHex 0x00050a0f04090e03080d02070c01060b) := by decide
/-- V-SR-5. -/
theorem test_isr :
    (stateOf (exec .isr (withBlock 0x000102030405060708090a0b0c0d0e0f))).map (·.st) =
      some (blockOfHex 0x000d0a0704010e0b0805020f0c090603) := by decide
/-- V-MC-14. -/
theorem test_mc :
    (stateOf (exec .mc (withBlock 0xd4bf5d30e0b452aeb84111f11e2798e5))).map (·.st) =
      some (blockOfHex 0x046681e5e0cb199a48f8d37a2806264c) := by decide
/-- V-MC-17. -/
theorem test_imc :
    (stateOf (exec .imc (withBlock 0x00112233445566778899aabbccddeeff))).map (·.st) =
      some (blockOfHex 0xaaff88ddeebbcc992277005566334411) := by decide
/-- V-ARK-2: round key 1 of K128. -/
theorem test_ark :
    (stateOf (exec (.ark 1)
      (withRoundKey 4 10 1 0xd6aa74fd 0xd2af72fa 0xdaa678f1 0xd6ab76fe 0x00112233445566778899aabbccddeeff))).map (·.st) =
      some (blockOfHex 0xd6bb56ce96fa148d523fd24a1a769801) := by decide
/-- V-ARK-4 and V-ARK-7: STATUS 0x004A0406 above EK_NR, 0x00000302 with no schedule whatever the round. -/
theorem test_ark_errors :
    (stateOf (exec (.ark 11) (withRoundKey 4 10 1 0 0 0 0 0))).map statusWord = some 0x004A0406 ∧
      (stateOf (exec (.ark 15) State.reset)).map statusWord = some 0x00000302 := by decide
/-- V-KX-1: KLEN = 0 is ERR 2. -/
theorem test_keyexp_bad_length : (stateOf (exec .keyexp (accepted 1))).map statusWord = some 0x00000202 := by decide
/-- K256: KLEN = 32 starts the expander with Nk = 8, Nr = 14. -/
theorem test_keyexp_starts :
    (stateOf (exec .keyexp { accepted 1 with klen := 32 })).map (fun t => (t.phase, t.kxNk, t.kxNr, t.kxI)) =
      some (.keyexp, 8, 14, 0) := by decide
/-- The step detail of K128-A1 at i = 4: EK[4] = a0fafe17. -/
theorem test_expander_gen_word :
    (stateOf (engineStep
      { expanding 4 with ek := (State.reset.ek.set 0 0x2b7e1516).set 3 0x09cf4f3c })).map (fun t => (t.ek[4], t.kxI)) =
      some (0xa0fafe17, 5) := by decide
/-- K256-A3 at i = 12, the branch for Nk = 8: EK[12] = a8b09c1a from EK[11] = 2067fcde and EK[4] = 1f352c07. -/
theorem test_expander_second_branch :
    (stateOf (engineStep
      { expanding 12 with
        kxNk := 8
        kxNr := 14
        ek := (State.reset.ek.set 11 0x2067fcde).set 4 0x1f352c07 })).map (fun t => t.ek[12]) =
      some 0xa8b09c1a := by decide
/-- V-CTL-4: ENC after reset is ERR 3; with a schedule it starts the sequencer. -/
theorem test_enc_dispatch :
    (stateOf (exec .enc (accepted 2))).map statusWord = some 0x00000302 ∧
      (stateOf (exec .enc (withRoundKey 4 10 1 0 0 0 0 0))).map (fun t => (t.phase, t.dir, t.rc)) =
        some (.cipher, .encrypt, 0) := by decide
/-- The trace of V-ENC-1, RC = 1. -/
theorem test_enc_round_1 :
    (stateOf (engineStep
      { withRoundKey 4 10 1 0xd6aa74fd 0xd2af72fa 0xdaa678f1 0xd6ab76fe 0x00102030405060708090a0b0c0d0e0f0 with
        phase := .cipher
        rc := 1 })).map (fun t => (t.st, t.rc)) =
      some (blockOfHex 0x89d810e8855ace682d1843d8cb128fe4, 2) := by decide
/-- DEC after reset is ERR 3; with a schedule it starts the sequencer. -/
theorem test_dec_dispatch :
    (stateOf (exec .dec (accepted 3))).map statusWord = some 0x00000302 ∧
      (stateOf (exec .dec (withRoundKey 4 10 1 0 0 0 0 0))).map (fun t => (t.phase, t.dir, t.rc)) =
        some (.cipher, .decrypt, 0) := by decide
/-- The trace of V-DEC-1, RC = 1, round key 9. -/
theorem test_dec_round_1 :
    (stateOf (engineStep
      { withRoundKey 4 10 9 0x549932d1 0xf0855768 0x1093ed9c 0xbe2c974e 0x7ad5fda789ef4e272bca100b3d9ff59f with
        phase := .cipher
        dir := .decrypt
        rc := 1 })).map (fun t => (t.st, t.rc)) =
      some (blockOfHex 0x54d990a16ba09ab596bbf40ea111702f, 2) := by decide
/-- The host's placement of a word: the very next step runs it (SB on the zero state gives 63 everywhere, V-SB-1). -/
theorem test_fetch_word_runs_next :
    (stateOf (step (State.reset.withFetchWord 32 0x5))).map (fun t => (t.st, t.cmdLast, t.done)) =
      some (blockOfHex 0x63636363636363636363636363636363, 5, true) := by decide

/-! ## Witnesses: states that meet the hypotheses of the statements -/

theorem accepted_inv (w : Word) : Inv (accepted w) :=
  { noSchedule := by simp [accepted, State.reset]
    schedule := by simp [accepted, State.reset]
    tail := by simp [accepted, State.reset]
    codes := by simp [accepted]
    quiet := by simp [accepted]
    expander := by simp [accepted]
    cleared := by simp [accepted]
    sequencer := by simp [accepted] }

theorem expanding_inv (i : BitVec 6) (h : i.toNat ≤ 60) : Inv (expanding i) :=
  { noSchedule := by simp [expanding, State.reset]
    schedule := by simp [expanding, State.reset]
    tail := by simp [expanding, State.reset]
    codes := by simp [expanding, State.reset]
    quiet := by simp [expanding, State.reset]
    expander := fun _ => ⟨rfl, .inl rfl, rfl, h⟩
    cleared := by simp [expanding, State.reset]
    sequencer := by simp [expanding] }

theorem ciphering_inv (dir : Direction) (rc : Nibble) (h : rc.toNat ≤ 10) : Inv (ciphering dir rc) :=
  { noSchedule := by simp [ciphering]
    schedule := fun _ => ⟨.inl rfl, rfl⟩
    tail := by simp [ciphering, State.reset]
    codes := by simp [ciphering, State.reset]
    quiet := by simp [ciphering, State.reset]
    expander := by simp [ciphering]
    cleared := by simp [ciphering]
    sequencer := fun _ => ⟨rfl, h⟩ }

/-- DecodeOfEncodeIsTheCommand, at the last round. -/
theorem witness_wellFormed : (Instr.ark 15).wellFormed = true := by decide
/-- EncodeOfDecodeIsTheWord. -/
theorem witness_decodes : decode 0x00000F04#32 = .ok (.ark 15) := by rfl
/-- DecodeSelectsTheTableRow. -/
theorem witness_row : (⟨"ARK", 4, 0xFFFFF0FF⟩ : OpcodeRow) ∈ opcodeTable := by decide
/-- DecodeFollowsTheFields: a word for each clause, at the ends of the ranges. -/
theorem witness_fields :
    ((0x00001000#32 : Word) >>> 12 ≠ 0) ∧
    ((0x00000F04#32 : Word) >>> 12 = 0 ∧ (0x00000F04#32 : Word) &&& 0xFF = 0x04) ∧
    ((0x00000100#32 : Word) >>> 12 = 0 ∧ (0x00000100#32 : Word) &&& 0xFF ≠ 0x04 ∧ (0x00000100#32 : Word) &&& 0xF00 ≠ 0) ∧
    ((0x0000000B#32 : Word) >>> 12 = 0 ∧ (0x0000000B#32 : Word) &&& 0xFF ≠ 0x04 ∧
      (0x0000000B#32 : Word) &&& 0xF00 = 0 ∧ ((0x0000000B#32 : Word) &&& 0xFF).toNat ≤ 0x0B) ∧
    ((0x0000000C#32 : Word) >>> 12 = 0 ∧ (0x0000000C#32 : Word) &&& 0xFF ≠ 0x04 ∧
      (0x0000000C#32 : Word) &&& 0xF00 = 0 ∧ 0x0B < ((0x0000000C#32 : Word) &&& 0xFF).toNat) := by decide
/-- IllegalWordsAreExactlyThese, second clause. -/
theorem witness_illegal_idle : State.reset.phase = .idle ∧ ∃ e, decode 0x00000107#32 = .error e :=
  ⟨rfl, .roundField, rfl⟩
/-- StepRunsDecodedCommand, both clauses. -/
theorem witness_dispatch :
    ((accepted 5).phase = .dispatch ∧ decode (accepted 5).cmdLast = .ok .sb ∧ (accepted 5).moves = []) ∧
    ((State.reset.withFetchWord 32 5).phase = .dispatch ∧ decode (State.reset.withFetchWord 32 5).cmdLast = .ok .sb ∧
      (State.reset.withFetchWord 32 5).moves = .engine :: []) :=
  ⟨⟨rfl, rfl, rfl⟩, rfl, rfl, rfl⟩
/-- IllegalCommandRaisesErrIllegal. -/
theorem witness_illegal_dispatch :
    (accepted 0xC).phase = .dispatch ∧ decode (accepted 0xC).cmdLast = .error .unassignedOpcode := ⟨rfl, rfl⟩
/-- CtrlWriteAcceptsOrOverruns, IdleWritesFollowTheMap, NopCompletes, ReadsFollowTheMap: an idle and a busy state. -/
theorem witness_idle_and_busy : State.reset.phase = .idle ∧ (accepted 1).phase ≠ .idle := ⟨rfl, by decide⟩
/-- BusyWritesAreDropped, second clause. -/
theorem witness_overrun_cleared :
    ∃ t, stepWith (wr 0x004 0x8) { State.reset with ovr := true } = .next t ∧ t.ovr = false := by
  refine ⟨_, stepWith_wr _ _ (by decide) (by decide), ?_⟩
  decide
/-- AccessesNotAdmittedChangeNothing: an access for each clause; misaligned, too narrow, the last word, past the end. -/
theorem witness_accesses :
    (∀ a ∈ ([⟨Config.aesBase + 0x002, 4, .read⟩, ⟨Config.aesBase + 0x1FC, 2, .read⟩] : List Access),
      (Config.aesBase ≤ a.addr ∧ a.addr < Config.aesBase + 0x200) ∧
        ¬ (a.bytes = 4 ∧ (a.addr - Config.aesBase) % 4 = 0)) ∧
    (∀ a ∈ ([⟨Config.aesBase + 0x1FC, 4, .read⟩, ⟨Config.aesBase, 4, .write 5⟩] : List Access),
      (Config.aesBase ≤ a.addr ∧ a.addr < Config.aesBase + 0x200) ∧
        (a.bytes = 4 ∧ (a.addr - Config.aesBase) % 4 = 0)) ∧
    ¬ (Config.aesBase ≤ Config.aesBase + 0x200 ∧ Config.aesBase + 0x200 < Config.aesBase + 0x200) := by
  refine ⟨?_, ?_, by omega⟩ <;> intro a ha <;> simp only [List.mem_cons, List.not_mem_nil, or_false] at ha <;>
    rcases ha with rfl | rfl <;> simp
/-- IdleWritesFollowTheMap, BusyWritesAreDropped, ReadsFollowTheMap, ReadsChangeNoEngineState: the ends of the ranges of
offsets of each clause. -/
theorem witness_offsets :
    (∀ off ∈ [0x044, 0x1FC], off % 4 = 0 ∧ 0x044 ≤ off ∧ off < 0x200) ∧
    (∀ off ∈ [0x000, 0x00C, 0x1FC], off % 4 = 0 ∧ off < 0x200 ∧ off ≠ 0x004 ∧ off ≠ 0x008) ∧
    (∀ off ∈ [0x048, 0x0FC, 0x1F0, 0x1FC],
      off % 4 = 0 ∧ (0x048 ≤ off ∧ off < 0x100 ∨ 0x1F0 ≤ off ∧ off < 0x200)) ∧
    (∀ off ∈ [0x030, 0x03C, 0x044, 0x100, 0x1EC],
      off % 4 = 0 ∧ (0x030 ≤ off ∧ off < 0x040 ∨ off = 0x044 ∨ 0x100 ≤ off ∧ off < 0x1F0)) ∧
    (0 < 8 ∧ 7 < 8) ∧ (0 < 4 ∧ 3 < 4) ∧ (0 < 60 ∧ 59 < 60) := by decide
/-- GfmulLaws, SboxIsAffineOfInverse, LogTablesAreGeneratorPowers, RoundConstantsArePowers, ExpandedKeyFollowsTheRecurrence,
CipherRoundTrip: the ends of the ranges. -/
theorem witness_ranges :
    gfmul 0 0xFF = 0 ∧ (1 : Byte) ≠ 0 ∧ 7 < 8 ∧ 255 ≤ 255 ∧ 254 ≤ 254 ∧ 12 + 1 < 14 ∧
      (∀ nk ∈ [4, 6, 8], nk = 4 ∨ nk = 6 ∨ nk = 8) ∧ 1 ≤ 1 := by decide
/-- TransformLaws, RowShiftCommands: two different states that agree on byte 0, on row 0 and on column 0. -/
theorem witness_locality :
    let s := blockOfHex 0x00112233445566778899aabbccddeeff
    let byRow := blockOfHex 0x00ffffff44ffffff88ffffffccffffff
    let byColumn := blockOfHex 0x00112233ffffffffffffffffffffffff
    s ≠ byRow ∧ s ≠ byColumn ∧ s[0]? = byRow[0]? ∧ (∀ i < 16, i % 4 = 0 → s[i]? = byRow[i]?) ∧
      (∀ i < 16, i / 4 = 0 → s[i]? = byColumn[i]?) := by decide
/-- ColumnMixCommands: a block whose last column alone is of four equal bytes. -/
theorem witness_equal_column :
    3 < 4 ∧ ∀ i, i / 4 = 3 → (blockOfHex 0x00112233445566778899aabb77777777)[i]? = some 0x77 := by
  refine ⟨by decide, fun i hi => ?_⟩
  obtain rfl | rfl | rfl | rfl : i = 12 ∨ i = 13 ∨ i = 14 ∨ i = 15 := by omega
  all_goals decide
/-- RegistersReadZeroAfterReset: a reset from a busy state, with the first and the last offset in range. -/
theorem witness_reset :
    (∃ t, stepWith .reset (accepted 1) = .next t) ∧ 0x000 % 4 = 0 ∧ 0x1FC % 4 = 0 ∧ 0x1FC < 0x200 := ⟨⟨_, rfl⟩, by decide⟩
/-- InterruptOutputIsDoneAndEnable, second clause. -/
theorem witness_interrupt_rises :
    ∃ t, stepWith .engine { accepted 0 with doneIe := true } = .next t ∧ t.phase = .idle ∧
      (accepted 0).phase ≠ .idle := ⟨_, rfl, rfl, by decide⟩
/-- InterruptFallsOnlyAsListed. -/
theorem witness_interrupt :
    irq { State.reset with done := true, doneIe := true } = true ∧
      ∃ t, stepWith .reset { State.reset with done := true, doneIe := true } = .next t := ⟨rfl, _, rfl⟩
/-- AddRoundKeyCommand: no schedule; r = EK_NR + 1; r = EK_NR = 14. -/
theorem witness_ark :
    State.reset.keyValid = false ∧
    ((ciphering .encrypt 0).keyValid = true ∧ (ciphering .encrypt 0).ekNr.toNat < 11) ∧
    ((withRoundKey 8 14 14 0 0 0 0 0).keyValid = true ∧ 14 ≤ (withRoundKey 8 14 14 0 0 0 0 0).ekNr.toNat) := by decide
/-- KeyexpDispatch, KeyexpCommandExpandsTheKey: a bad and a good length. -/
theorem witness_lengths :
    ¬ (State.reset.klen.toNat = 16 ∨ State.reset.klen.toNat = 24 ∨ State.reset.klen.toNat = 32) ∧
    (let s := { State.reset with klen := 32 }
     s.moves = [] ∧ (s.klen.toNat = 16 ∨ s.klen.toNat = 24 ∨ s.klen.toNat = 32)) := by decide
/-- ExpanderStepWritesOneWord: LOAD at 0 and 3, GEN at 4 and 43, CLEAR at 44 and 59, DONE at 60. -/
theorem witness_expander :
    ∀ i ∈ ([0, 3, 4, 43, 44, 59, 60] : List (BitVec 6)), Inv (expanding i) ∧ (expanding i).phase = .keyexp := by
  intro i hi
  refine ⟨expanding_inv i ?_, rfl⟩
  revert i
  decide
/-- SequencerStepComputesOneRound: the initial, a middle and the final round, in both directions. -/
theorem witness_sequencer :
    ∀ dir ∈ [Direction.encrypt, .decrypt], ∀ rc ∈ ([0, 1, 9, 10] : List Nibble),
      (ciphering dir rc).phase = .cipher ∧ (ciphering dir rc).rc.toNat ≤ (ciphering dir rc).ekNr.toNat ∧
        (ciphering dir rc).ekNr.toNat ≤ 14 ∧ (ciphering dir rc).dir = dir := by decide
/-- CipherDispatch, EncCommandEncrypts, DecCommandDecrypts. -/
theorem witness_cipher :
    (ciphering .encrypt 0).moves = [] ∧ (ciphering .encrypt 0).keyValid = true ∧
      (ciphering .encrypt 0).ekNr.toNat ≤ 14 ∧ State.reset.keyValid = false := by decide
/-- EngineInvariantIsKept, NoStepStopsFromAGoodState: a step that accepts nothing and one that runs a command. -/
theorem witness_invariant : Inv (accepted 5) ∧ ∃ t, step (accepted 5) = .next t := ⟨accepted_inv 5, _, rfl⟩
/-- ScheduleSoundnessIsKept: KEYEXP's dispatch step, after which the expander runs. -/
theorem witness_sound :
    let s := { accepted 1 with klen := 16 }
    Inv s ∧ ScheduleSound s ∧ ∃ t, step s = .next t :=
  ⟨⟨(accepted_inv 1).1, (accepted_inv 1).2, (accepted_inv 1).3, (accepted_inv 1).4, (accepted_inv 1).5,
    (accepted_inv 1).6, (accepted_inv 1).7, (accepted_inv 1).8⟩,
    ⟨fun h => absurd h (by decide), fun h => absurd h (by decide)⟩, _, rfl⟩
/-- StatusReadsQuietWhileBusy, HostAccessesLeaveARunningCommandAlone. -/
theorem witness_busy : Inv (ciphering .decrypt 10) ∧ (ciphering .decrypt 10).phase ≠ .idle ∧ isHosts .wait :=
  ⟨ciphering_inv .decrypt 10 (by decide), by decide, .inl rfl⟩
/-- OnlyKeyexpAndResetWriteTheSchedule: a reset and a KEYEXP that clear KEY_VALID, and a LOAD step that changes EK. -/
theorem witness_schedule_written :
    (∃ t, step { ciphering .encrypt 0 with moves := [.reset] } = .next t ∧
      t.keyValid ≠ (ciphering .encrypt 0).keyValid) ∧
    (∃ t, step { accepted 1 with keyValid := true } = .next t ∧ t.keyValid ≠ true) ∧
    (∃ t, step { expanding 0 with key := Vector.replicate 8 7 } = .next t ∧ t.ek ≠ (expanding 0).ek) :=
  ⟨⟨_, rfl, by decide⟩, ⟨_, rfl, by decide⟩, _, rfl, by decide⟩
/-- OnlyGfmulAndResetWriteTheProduct: a GFMUL that changes GF_P. -/
theorem witness_product_written :
    ∃ t, step { accepted 0xB with gfA := 1, gfB := 1 } = .next t ∧ t.gfP ≠ (accepted 0xB).gfP := ⟨_, rfl, by decide⟩
/-- CommandsAreAtomic: SB, one step. -/
theorem witness_atomic :
    Inv (accepted 5) ∧ (accepted 5).phase = .dispatch ∧ (∀ m ∈ (accepted 5).moves, m ≠ Move.reset) ∧
      ∃ t, run 1 (accepted 5) = .next t ∧ t.phase = .idle ∧
        ∀ j u, j < 1 → run j (accepted 5) = .next u → u.phase ≠ .idle := by
  refine ⟨accepted_inv 5, rfl, fun m hm => absurd hm (by simp [accepted, State.reset]), _, rfl, rfl, ?_⟩
  intro j u hj hu
  obtain rfl : j = 0 := by omega
  simp only [run_zero, Host.Outcome.next.injEq] at hu
  subst hu
  decide
/-- CommandsCompleteInTheStatedSteps. -/
theorem witness_running :
    Inv (expanding 7) ∧ (expanding 7).moves = [] ∧ (expanding 7).phase ≠ .idle :=
  ⟨expanding_inv 7 (by decide), rfl, by decide⟩
/-- ErrorCodesHaveTheirCauses, ErrorsArePrecise: a completion of the expander, KEYEXP with a bad length, and ENC with no
schedule. -/
theorem witness_errors :
    (∃ t, stepWith .engine (expanding 60) = .next t ∧ (expanding 60).phase = .keyexp ∧ t.phase = .idle) ∧
    (∃ t, stepWith .engine (accepted 1) = .next t ∧ t.phase = .idle ∧ t.err ≠ 0 ∧
      decode (accepted 1).cmdLast = .ok .keyexp) ∧
    (∃ t, stepWith .engine (accepted 2) = .next t ∧ t.phase = .idle ∧ t.err ≠ 0 ∧
      decode (accepted 2).cmdLast = .ok .enc) :=
  ⟨⟨_, rfl, rfl, rfl⟩, ⟨_, rfl, rfl, by decide, rfl⟩, _, rfl, rfl, by decide, rfl⟩
/-- CommandsWriteOnlyTheirResults. -/
theorem witness_frame : ∃ t, exec .sb State.reset = .next t := ⟨_, rfl⟩
/-- WaitEndsWhenTheCommandCompletes. -/
theorem witness_wait : Inv { accepted 5 with moves := [.wait] } ∧ { accepted 5 with moves := [.wait] }.moves = [.wait] :=
  ⟨⟨(accepted_inv 5).1, (accepted_inv 5).2, (accepted_inv 5).3, (accepted_inv 5).4, (accepted_inv 5).5,
    (accepted_inv 5).6, (accepted_inv 5).7, (accepted_inv 5).8⟩, rfl⟩
/-- LdstThenRdstGivesTheBlock, LdkeyLoadsTheKey: the host's moves on an idle engine. -/
theorem witness_host_program :
    { State.reset with moves := ldst (blockOfHex 7) ++ rdst }.phase = .idle ∧
      (List.replicate 32 (1 : Byte)).length = 32 ∧
      { State.reset with moves := ldkey (List.replicate 32 1) }.phase = .idle := ⟨rfl, by decide, rfl⟩

end Sys2Proof.Tests
end

/-! # The state's own statements: STATUS writes, the product register, the invariant, the schedule

First what a step can do, once for every invariant (`exec_next_cases`, `HostKeeps.step`); then each statement, those about
every step as an engine part and a host part. -/

namespace Sys2Proof.Machine

/-! ## What a step can do -/

theorem startCipher_next {dir : Direction} {s t : State} (h : startCipher dir s = .next t) :
    t = finish 3 s ∨ (s.keyValid = true ∧ t = { s with dir := dir, rc := 0, phase := .cipher }) := by
  obtain ⟨-, hs⟩ | ⟨hk, hs⟩ := startCipher_cases dir s <;> cases hs.symm.trans h
  · exact .inl rfl
  · exact .inr ⟨hk, rfl⟩

/-- A command's dispatch step completes (changing at most ST, and GF_P for GFMUL), or is KEYEXP's, or starts the
sequencer. -/
theorem exec_next_cases {i : Instr} {s t : State} (h : exec i s = .next t) :
    (∃ code st p, code.toNat ≤ 4 ∧ (p = s.gfP ∨ i = .gfmul) ∧ t = finish code { s with st := st, gfP := p }) ∨
    (i = .keyexp ∧ execKeyexp s = .next t) ∨
    (∃ dir, s.keyValid = true ∧ t = { s with dir := dir, rc := 0, phase := .cipher }) := by
  cases i with
  | nop => cases h; exact .inl ⟨0, s.st, s.gfP, by decide, .inl rfl, rfl⟩
  | sb | isb | sr | isr | mc | imc => cases h; exact .inl ⟨0, _, s.gfP, by decide, .inl rfl, rfl⟩
  | gfmul => cases h; exact .inl ⟨0, s.st, _, by decide, .inr rfl, rfl⟩
  | keyexp => exact .inr (.inl ⟨rfl, h⟩)
  | enc | dec =>
    obtain rfl | ⟨hk, rfl⟩ := startCipher_next h
    · exact .inl ⟨3, s.st, s.gfP, by decide, .inl rfl, rfl⟩
    · exact .inr (.inr ⟨_, hk, rfl⟩)
  | ark r =>
    have h : execArk r s = .next t := h
    obtain ⟨-, hs⟩ | ⟨-, -, hs⟩ | ⟨-, -, -, hs⟩ | ⟨-, -, -, hs⟩ := execArk_cases r s <;>
      cases hs.symm.trans h
    · exact .inl ⟨3, s.st, s.gfP, by decide, .inl rfl, rfl⟩
    · exact .inl ⟨4, s.st, s.gfP, by decide, .inl rfl, rfl⟩
    · exact .inl ⟨0, _, s.gfP, by decide, .inl rfl, rfl⟩

/-- What every access of the host's keeps: a property that the model's own records, an overrun, and every register write
the engine lets through (R87, R88) leave true. -/
structure HostKeeps (P : State → Prop) : Prop where
  record : ∀ s ms rs n, P s → P { s with moves := ms, replies := rs, draws := n }
  overrun : ∀ s, P s → P { s with ovr := true }
  write : ∀ s v r, busy s = false ∨ writableWhileBusy r = true → P s → P (writeReg s v r)

namespace HostKeeps

variable {P : State → Prop} {s t : State}

theorem answer (hP : HostKeeps P) (r : Reply) (h : P s) : P (answer r s) := hP.record s _ _ _ h

theorem busRead (hP : HostKeeps P) (reg : Reg) (h : P s) : P (busRead reg s) := by
  obtain ⟨-, -, hr⟩ | ⟨-, hr⟩ := busRead_cases reg s <;> rw [hr] <;> exact hP.record s _ _ _ h

theorem busWrite (hP : HostKeeps P) (reg : Reg) (v : Word) (h : P s) : P (busWrite reg v s) := by
  obtain ⟨-, -, hw⟩ | ⟨hadm, hw⟩ := busWrite_cases reg v s <;> rw [hw]
  · exact hP.answer .written (hP.overrun s h)
  · exact hP.answer .written (hP.write s v reg hadm h)

theorem busAccess (hP : HostKeeps P) (a : Access) (h : P s) : P (busAccess a s) := by
  obtain ⟨-, ha⟩ | ⟨off, -, ⟨-, ha⟩ | ⟨-, -, -, ha⟩ | ⟨v, -, -, -, ha⟩⟩ := busAccess_cases a s <;> rw [ha]
  · exact hP.answer _ h
  · exact hP.answer _ h
  · exact hP.busRead _ h
  · exact hP.busWrite _ v h

theorem waitTurn (hP : HostKeeps P) (h : P s) : P (waitTurn s) := by
  have hr := hP.busRead .status h
  rw [Machine.waitTurn]
  split
  · exact hP.record _ _ _ _ hr
  · exact hr

/-- What the host, the reset state and the engine's step keep, every step keeps. -/
theorem step (hP : HostKeeps P) (reset : P State.reset) (engine : ∀ s t, P s → engineStep s = .next t → P t)
    (h : P s) (hs : step s = .next t) : P t := by
  have hms : ∀ ms, P { s with moves := ms } := fun ms => hP.record s ms _ _ h
  obtain ⟨-, hm⟩ | ⟨ms, -, hm⟩ | ⟨a, ms, -, hm⟩ | ⟨ms, -, hm⟩ | ⟨ms, -, hm⟩ := step_cases s <;> rw [hm] at hs
  · exact engine s t h hs
  · exact engine _ t (hms ms) hs
  · cases hs; exact hP.busAccess a (hms ms)
  · cases hs; exact hP.waitTurn (hms ms)
  · cases hs; exact hP.record _ _ _ _ reset

end HostKeeps

/-! ## A write to STATUS (R34) -/

theorem clearStatus_eq (v : Word) (s : State) :
    clearStatus v s =
      { s with done := if v.getLsbD 1 then false else s.done, ovr := if v.getLsbD 3 then false else s.ovr } := by
  have clear : ∀ field bit : Bool, (field && !bit) = if bit then false else field := by decide
  rw [clearStatus, clear, clear]

/-- STATUS takes a write in every phase (R34, R88). -/
theorem busWrite_status (v : Word) (s : State) : busWrite .status v s = answer .written (clearStatus v s) := by
  simp [busWrite, writableWhileBusy, writeReg]

/-- Settles O12: STATUS takes the write in every phase, and `clearStatus` is the two conditional clears. -/
theorem statusWriteClearsDoneAndOvr : Obligations.StatusWriteClearsDoneAndOvr := by
  intro s v
  refine ⟨.written, ?_⟩
  have hreg : regAt 0x004 = .status := rfl
  rw [stepWith_wr v s (by decide) (by decide), hreg, busWrite_status, clearStatus_eq]
  rfl

/-! ## The product register (R39) -/

/-- No access of the host's writes GF_P: GFRES is read-only (R87). -/
theorem hostKeeps_gfP (p : Byte) : HostKeeps fun s => s.gfP = p where
  record _ _ _ _ h := h
  overrun _ h := h
  write s v r _ h := by
    obtain ⟨-, -, -, hp, -⟩ := writeReg_frame s v r
    exact hp.trans h

theorem stepKeyexp_gfP {s t : State} (h : stepKeyexp s = .next t) : t.gfP = s.gfP := by
  obtain ⟨-, hs⟩ | ⟨w, hi, -, -, hs⟩ | ⟨-, -, hs⟩ := stepKeyexp_cases s <;> cases hs.symm.trans h <;> rfl

theorem stepCipher_gfP {s t : State} (h : stepCipher s = .next t) : t.gfP = s.gfP := by
  obtain ⟨-, -, hs⟩ | ⟨-, -, hs⟩ | ⟨-, hs⟩ := stepCipher_cases s <;> cases hs.symm.trans h <;> rfl

theorem execKeyexp_gfP {s t : State} (h : execKeyexp s = .next t) : t.gfP = s.gfP := by
  obtain ⟨-, hs⟩ | ⟨-, hs⟩ := execKeyexp_cases s <;> cases hs.symm.trans h <;> rfl

theorem exec_gfP {i : Instr} {s t : State} (h : exec i s = .next t) : t.gfP = s.gfP ∨ i = .gfmul := by
  obtain ⟨code, st, p, -, hp, rfl⟩ | ⟨-, hk⟩ | ⟨dir, -, rfl⟩ := exec_next_cases h
  · exact hp
  · exact .inl (execKeyexp_gfP hk)
  · exact .inl rfl

theorem engineStep_gfP {s t : State} (h : engineStep s = .next t) :
    t.gfP = s.gfP ∨ (s.phase = .dispatch ∧ decode s.cmdLast = .ok .gfmul) := by
  obtain ⟨-, he⟩ | ⟨hp, i, hd, he⟩ | ⟨-, e, -, he⟩ | ⟨-, he⟩ | ⟨-, he⟩ := engineStep_cases s <;> rw [he] at h
  · cases h; exact .inl rfl
  · exact (exec_gfP h).imp_right fun hi => ⟨hp, hd.trans (congrArg _ hi)⟩
  · cases h; exact .inl rfl
  · exact .inl (stepKeyexp_gfP h)
  · exact .inl (stepCipher_gfP h)

/-- Settles O49: the host keeps GF_P, and of the engine's steps only GFMUL's dispatch step may change it. -/
theorem onlyGfmulAndResetWriteTheProduct : Obligations.OnlyGfmulAndResetWriteTheProduct := by
  intro s t hs hne
  have host := hostKeeps_gfP s.gfP
  obtain ⟨hm, hst⟩ | ⟨ms, hm, hst⟩ | ⟨a, ms, hm, hst⟩ | ⟨ms, hm, hst⟩ | ⟨ms, hm, -⟩ := step_cases s
  · exact .inr ⟨.inl hm, (engineStep_gfP (hst.symm.trans hs)).resolve_left hne⟩
  · exact .inr ⟨.inr ⟨ms, hm⟩, (engineStep_gfP (hst.symm.trans hs)).resolve_left hne⟩
  · cases hst.symm.trans hs; exact (hne (host.busAccess a rfl)).elim
  · cases hst.symm.trans hs; exact (hne (host.waitTurn rfl)).elim
  · exact .inl ⟨ms, hm⟩

/-! ## The invariant of the engine (R33, R40, R190, R195, R254, R281, R305) -/

theorem legalNk_iff (nk : Nibble) : legalNk nk ↔ nk.toNat = 4 ∨ nk.toNat = 6 ∨ nk.toNat = 8 := by
  simp [legalNk, ← BitVec.toNat_inj]

/-- `Nr = Nk + 6` fits its 4-bit field (R180). -/
theorem legalNk.nr_toNat {nk : Nibble} (h : legalNk nk) : (nk + 6).toNat = nrOf nk.toNat := by
  obtain rfl | rfl | rfl := h <;> rfl

/-- What KEYEXP latches for a legal length (R190). -/
theorem nkOf_legal {klen : Byte} (h : legalKlen klen = true) :
    legalNk (BitVec.ofNat 4 (nkOf klen)) ∧
      BitVec.ofNat 4 (nrOf (nkOf klen)) = BitVec.ofNat 4 (nkOf klen) + 6 := by
  obtain rfl | rfl | rfl : klen = 16 ∨ klen = 24 ∨ klen = 32 := by simpa [legalKlen] using h
  · exact ⟨.inl rfl, rfl⟩
  · exact ⟨.inr (.inl rfl), rfl⟩
  · exact ⟨.inr (.inr rfl), rfl⟩

/-- At a completion the invariant is only about the schedule and the code. -/
theorem inv_finish {s : State} {code : Nibble} (hcode : code.toNat ≤ 4)
    (noSchedule : s.keyValid = false → s.ekNr = 0 ∧ s.ekNk = 0)
    (schedule : s.keyValid = true → legalNk s.ekNk ∧ s.ekNr = s.ekNk + 6)
    (tail : s.keyValid = true → ∀ i (h : i < 60), schedWords s.ekNr.toNat ≤ i → s.ek[i] = 0) :
    Inv (finish code s) where
  noSchedule := noSchedule
  schedule := schedule
  tail := tail
  codes := hcode
  quiet := by simp
  expander := by simp
  cleared := by simp
  sequencer := by simp

theorem Inv.finish {s : State} (h : Inv s) {code : Nibble} (hcode : code.toNat ≤ 4) : Inv (finish code s) :=
  inv_finish hcode h.noSchedule h.schedule h.tail

/-- Acceptance clears DONE and ERR (R280), which is what a running command needs. -/
theorem Inv.accept {s : State} (h : Inv s) (v : Word) : Inv (accept v s) :=
  { h with
    codes := by simp
    quiet := fun _ => ⟨rfl, rfl⟩
    expander := by simp
    cleared := by simp
    sequencer := by simp }

theorem Inv.clearStatus {s : State} (h : Inv s) (v : Word) : Inv (clearStatus v s) :=
  { h with quiet := fun hb => ⟨by simp [(h.quiet hb).1], (h.quiet hb).2⟩ }

/-- The invariant says nothing of the cipher state. -/
theorem Inv.withBlock {s : State} (h : Inv s) (st : Block) : Inv { s with st := st } := { h with }

theorem hostKeeps_inv : HostKeeps Inv where
  record _ _ _ _ h := { h with }
  overrun _ h := { h with }
  write s v r _ h := by
    cases r with
    | ctrl => exact h.accept v
    | status => exact h.clearStatus v
    | state c => exact h.withBlock (setColumn s.st c v)
    | inten | keylen | key | gfop | gfres | expkey | reserved => exact { h with }

/-- KEYEXP first makes the schedule invalid (R190); no sequencer runs on it then. -/
theorem Inv.invalidate {s : State} (h : Inv s) (hp : s.phase = .dispatch) :
    Inv { s with keyValid := false, ekNk := 0, ekNr := 0 } :=
  { h with
    noSchedule := fun _ => ⟨rfl, rfl⟩
    schedule := by simp
    tail := by simp
    expander := by simp [hp]
    sequencer := by simp [hp] }

theorem Inv.execKeyexp {s t : State} (h : Inv s) (hp : s.phase = .dispatch) (he : execKeyexp s = .next t) : Inv t := by
  have hinv := h.invalidate hp
  obtain ⟨-, hs⟩ | ⟨hl, hs⟩ := execKeyexp_cases s <;> cases hs.symm.trans he
  · exact hinv.finish (by decide)
  · obtain ⟨hnk, hnr⟩ := nkOf_legal hl
    exact { hinv with
      quiet := fun _ => h.quiet (by simp [busy, hp])
      expander := fun _ => ⟨rfl, hnk, hnr, Nat.zero_le 60⟩
      cleared := fun _ i _ hi => absurd hi (Nat.not_lt_zero i)
      sequencer := by simp }

theorem Inv.exec {i : Instr} {s t : State} (h : Inv s) (hp : s.phase = .dispatch) (he : exec i s = .next t) :
    Inv t := by
  obtain ⟨code, st, p, hcode, -, rfl⟩ | ⟨-, hk⟩ | ⟨dir, hk, rfl⟩ := exec_next_cases he
  · exact inv_finish hcode h.noSchedule h.schedule h.tail
  · exact h.execKeyexp hp hk
  · exact { h with
      quiet := fun _ => h.quiet (by simp [busy, hp])
      expander := by simp
      cleared := by simp
      sequencer := fun _ => ⟨hk, Nat.zero_le _⟩ }

/-- The expander's CLEAR branch (R195): past the key and the schedule the word written is 0. -/
theorem Inv.expanderWord_past_schedule {s : State} (h : Inv s) (hp : s.phase = .keyexp)
    (hi : schedWords s.kxNr.toNat ≤ s.kxI.toNat) : expanderWord s = some 0 := by
  obtain ⟨-, hnk, hnr, -⟩ := h.expander hp
  have hle : s.kxNk.toNat ≤ schedWords s.kxNr.toNat := by
    rw [hnr, hnk.nr_toNat, schedWords, nrOf]
    omega
  rw [expanderWord, if_neg (by omega)]

/-- The 6-bit counter KX_I does not wrap below 60 (R53). -/
theorem kxI_succ_toNat {i : BitVec 6} (h : i.toNat < 60) : (i + 1).toNat = i.toNat + 1 := by
  bv_omega

theorem Inv.stepKeyexp {s t : State} (h : Inv s) (hp : s.phase = .keyexp) (he : stepKeyexp s = .next t) : Inv t := by
  obtain ⟨hkv, hnk, hnr, -⟩ := h.expander hp
  obtain ⟨hd, hs⟩ | ⟨w, hi, -, hw, hs⟩ | ⟨-, -, hs⟩ := stepKeyexp_cases s <;> cases hs.symm.trans he
  · obtain ⟨-, -, h60⟩ := (expanderDone_iff s).1 hd
    exact inv_finish (by decide) (by simp) (fun _ => ⟨hnk, hnr⟩)
      fun _ i hi60 hsched => h.cleared hp i hi60 (by omega) hsched
  · have hsucc := kxI_succ_toNat hi
    exact { h with
      tail := by simp [hkv]
      expander := fun _ => ⟨hkv, hnk, hnr, by simp only [hsucc]; omega⟩
      cleared := by
        intro _ i hi60 hlt hsched
        simp only [hsucc] at hlt
        by_cases hieq : s.kxI.toNat = i
        · have hzero := h.expanderWord_past_schedule hp (hieq ▸ hsched)
          simp only [hw, Option.some.injEq] at hzero
          simp [hieq, hzero]
        · simpa [Vector.getElem_set, hieq] using h.cleared hp i hi60 (by omega) hsched }

theorem Inv.stepCipher {s t : State} (h : Inv s) (hp : s.phase = .cipher) (he : stepCipher s = .next t) : Inv t := by
  obtain ⟨-, -, hs⟩ | ⟨hlt, -, hs⟩ | ⟨-, hs⟩ := stepCipher_cases s <;> cases hs.symm.trans he
  · exact inv_finish (by decide) h.noSchedule h.schedule h.tail
  · obtain ⟨hk, -⟩ := h.sequencer hp
    have hle : (s.rc + 1).toNat ≤ s.ekNr.toNat := by bv_omega
    exact { h with sequencer := fun _ => ⟨hk, hle⟩ }

theorem Inv.engineStep {s t : State} (h : Inv s) (he : engineStep s = .next t) : Inv t := by
  obtain ⟨-, hs⟩ | ⟨hp, i, -, hs⟩ | ⟨-, e, -, hs⟩ | ⟨hp, hs⟩ | ⟨hp, hs⟩ := engineStep_cases s <;> rw [hs] at he
  · cases he; exact h
  · exact h.exec hp he
  · cases he; exact h.finish (by decide)
  · exact h.stepKeyexp hp he
  · exact h.stepCipher hp he

theorem inv_reset : Inv State.reset where
  noSchedule _ := ⟨rfl, rfl⟩
  schedule := by simp [State.reset]
  tail := by simp [State.reset]
  codes := Nat.zero_le 4
  quiet := by simp [busy, State.reset]
  expander := by simp [State.reset]
  cleared := by simp [State.reset]
  sequencer := by simp [State.reset]

/-- Settles O43: the host, reset and each phase of the engine's step keep the invariant. -/
theorem engineInvariantIsKept : Obligations.EngineInvariantIsKept :=
  fun _ _ h hs => hostKeeps_inv.step inv_reset (fun _ _ => Inv.engineStep) h hs

/-! ## The schedule as a list of words (R180 to R187) -/

/-- A word past the key reads only words before it (R184). -/
theorem scheduleWord_congr {key : Vector Word 8} {nk i : Nat} {read read' : Nat → Option Word}
    (h : ∀ j, j < i → read j = read' j) : scheduleWord key nk i read = scheduleWord key nk i read' := by
  by_cases hi : i < nk
  · simp [scheduleWord, hi]
  · by_cases hnk : nk = 0
    · simp [scheduleWord, hnk]
    · simp only [scheduleWord, hi, hnk, if_false, h (i - 1) (by omega), h (i - nk) (by omega)]

/-- The list grows by the word that follows from the list so far (R185). -/
theorem scheduleWords_succ {key : Vector Word 8} {nk n : Nat} {ws : List Word} :
    scheduleWords key nk (n + 1) = some ws ↔
      ∃ vs w, scheduleWords key nk n = some vs ∧ scheduleWord key nk n (fun j => vs[j]?) = some w ∧
        ws = vs ++ [w] := by
  cases hv : scheduleWords key nk n with
  | none => simp [scheduleWords, hv]
  | some vs => simp [scheduleWords, hv, eq_comm]

theorem scheduleWords_length {key : Vector Word 8} {nk n : Nat} {ws : List Word}
    (h : scheduleWords key nk n = some ws) : ws.length = n := by
  induction n generalizing ws with
  | zero => cases h; rfl
  | succ n ih =>
    obtain ⟨vs, w, hvs, -, rfl⟩ := scheduleWords_succ.1 h
    simp [ih hvs]

/-- Every word of the list is the recurrence's, read in the list itself. -/
theorem scheduleWords_getElem? {key : Vector Word 8} {nk n : Nat} {ws : List Word}
    (h : scheduleWords key nk n = some ws) {i : Nat} (hi : i < n) :
    ws[i]? = scheduleWord key nk i fun j => ws[j]? := by
  induction n generalizing ws with
  | zero => exact absurd hi (Nat.not_lt_zero i)
  | succ n ih =>
    obtain ⟨vs, w, hvs, hw, rfl⟩ := scheduleWords_succ.1 h
    have hlen := scheduleWords_length hvs
    have hbefore : ∀ j, j < n → (vs ++ [w])[j]? = vs[j]? :=
      fun j hj => List.getElem?_append_left (hlen.symm ▸ hj)
    rw [scheduleWord_congr fun j hj => hbefore j (by omega)]
    obtain hlt | rfl : i < n ∨ i = n := by omega
    · rw [hbefore i hlt, ih hvs hlt]
    · rw [hw, ← hlen, List.getElem?_concat_length]

/-- RCON has an entry for every word of a schedule that needs one (R160). -/
theorem rcon_isSome {j : Nat} (h : j < 14) : (rcon j).isSome = true := by
  simpa [rcon, rconTable] using h

/-- Every word of a schedule that fits the store exists, given the words before it (R184). -/
theorem scheduleWord_isSome {key : Vector Word 8} {nk i : Nat} {ws : List Word}
    (hnk : nk = 4 ∨ nk = 6 ∨ nk = 8) (hi : i < 60) (hlen : ws.length = i) :
    (scheduleWord key nk i fun j => ws[j]?).isSome = true := by
  by_cases hik : i < nk
  · have h8 : i < 8 := by omega
    simp [scheduleWord, hik, h8]
  · have hprev : i - 1 < ws.length := by omega
    have hback : i - nk < ws.length := by omega
    have hrcon : (rcon (i / nk - 1)).isSome = true := by
      refine rcon_isSome ?_
      obtain rfl | rfl | rfl := hnk <;> omega
    have hnk0 : nk ≠ 0 := by omega
    simp only [scheduleWord, hik, hnk0, if_false, List.getElem?_eq_getElem hprev, List.getElem?_eq_getElem hback,
      nextWord]
    split
    · simpa using hrcon
    · split <;> rfl

theorem scheduleWords_isSome (key : Vector Word 8) {nk n : Nat} (hnk : nk = 4 ∨ nk = 6 ∨ nk = 8) (hn : n ≤ 60) :
    ∃ ws, scheduleWords key nk n = some ws := by
  induction n with
  | zero => exact ⟨[], rfl⟩
  | succ n ih =>
    obtain ⟨vs, hvs⟩ := ih (by omega)
    obtain ⟨w, hw⟩ := Option.isSome_iff_exists.1
      (scheduleWord_isSome (key := key) hnk (by omega) (scheduleWords_length hvs))
    exact ⟨_, scheduleWords_succ.2 ⟨vs, w, hvs, hw, rfl⟩⟩

/-- A legal schedule fits the store (R82, R180). -/
theorem schedWords_le_store {nk : Nat} (hnk : nk = 4 ∨ nk = 6 ∨ nk = 8) : schedWords (nrOf nk) ≤ 60 := by
  rw [schedWords, nrOf]
  omega

/-- Every key of a legal length has an expansion (R185). -/
theorem expandedStore_isSome (key : Vector Word 8) {nk : Nat} (hnk : nk = 4 ∨ nk = 6 ∨ nk = 8) :
    ∃ ws, expandedStore key nk = some ws := by
  obtain ⟨ws, hws⟩ := scheduleWords_isSome key hnk (schedWords_le_store hnk)
  exact ⟨_, by rw [expandedStore, keyExpansion, hws, Option.map_some]⟩

/-- What an expanded store holds: 60 words, the recurrence's and then 0 (R40, R185, R196). -/
theorem expandedStore_spec {key : Vector Word 8} {nk : Nat} {ws : List Word} (hnk : nk = 4 ∨ nk = 6 ∨ nk = 8)
    (h : expandedStore key nk = some ws) :
    ws.length = 60 ∧
      (∀ i, i < schedWords (nrOf nk) → ws[i]? = scheduleWord key nk i fun j => ws[j]?) ∧
      ∀ i, schedWords (nrOf nk) ≤ i → i < 60 → ws[i]? = some 0 := by
  obtain ⟨vs, hvs, rfl⟩ := Option.map_eq_some_iff.1 h
  have hlen := scheduleWords_length hvs
  have hfit := schedWords_le_store hnk
  have hbefore : ∀ zs : List Word, ∀ j, j < schedWords (nrOf nk) → (vs ++ zs)[j]? = vs[j]? :=
    fun zs j hj => List.getElem?_append_left (hlen.symm ▸ hj)
  refine ⟨by simp [hlen]; omega, fun i hi => ?_, fun i hge hlt => ?_⟩
  · rw [hbefore _ i hi, scheduleWord_congr fun j hj => hbefore _ j (by omega)]
    exact scheduleWords_getElem? hvs hi
  · rw [List.getElem?_append_right (hlen.symm ▸ hge), List.getElem?_replicate, if_pos (by omega)]

/-! ## The soundness of the schedule (R33, R195, R196) -/

/-- With no expander running, soundness is only about a valid schedule. -/
theorem ScheduleSound.of_valid {s : State} (hp : s.phase ≠ .keyexp)
    (h : s.keyValid = true → ∃ key, expandedStore key s.ekNk.toNat = some s.ek.toList) : ScheduleSound s :=
  ⟨h, fun hk => absurd hk hp⟩

/-- The host may write KEY only with the engine idle (R88), so never under a running expander. -/
theorem ScheduleSound.writeReg {s : State} (h : ScheduleSound s) (v : Word) (r : Reg)
    (hadm : busy s = false ∨ writableWhileBusy r = true) : ScheduleSound (writeReg s v r) := by
  have hvalid : (Machine.writeReg s v r).keyValid = true → ∃ key,
      expandedStore key (Machine.writeReg s v r).ekNk.toNat = some (Machine.writeReg s v r).ek.toList := by
    obtain ⟨hkv, -, hnk, -, hek, -⟩ := writeReg_frame s v r
    rw [hkv, hnk, hek]
    exact h.valid
  cases r with
  | ctrl => exact .of_valid (by simp [Machine.writeReg]) hvalid
  | status | inten => exact { h with }
  | keylen | key | state | gfop | gfres | expkey | reserved =>
    have hidle : s.phase = .idle := (not_busy_iff s).1 (hadm.resolve_right (by simp [writableWhileBusy]))
    exact .of_valid (by simp [Machine.writeReg, hidle]) hvalid

theorem hostKeeps_scheduleSound : HostKeeps ScheduleSound where
  record _ _ _ _ h := { h with }
  overrun _ h := { h with }
  write _ v r hadm h := h.writeReg v r hadm

theorem ScheduleSound.finish {s : State} (h : ScheduleSound s) (code : Nibble) : ScheduleSound (finish code s) :=
  .of_valid (by simp) h.valid

/-- A started expander has written no word yet, and the key it expands has an expansion (R190). -/
theorem scheduleSound_execKeyexp {s t : State} (he : execKeyexp s = .next t) : ScheduleSound t := by
  obtain ⟨-, hs⟩ | ⟨hl, hs⟩ := execKeyexp_cases s <;> cases hs.symm.trans he
  · exact .of_valid (by simp) (by simp)
  · obtain ⟨hnk, -⟩ := nkOf_legal hl
    obtain ⟨ws, hws⟩ := expandedStore_isSome s.key ((legalNk_iff _).1 hnk)
    exact ⟨by simp, fun _ => ⟨ws, hws, fun i hi => absurd hi (Nat.not_lt_zero i)⟩⟩

theorem ScheduleSound.exec {i : Instr} {s t : State} (h : ScheduleSound s) (he : exec i s = .next t) :
    ScheduleSound t := by
  obtain ⟨code, st, p, -, -, rfl⟩ | ⟨-, hk⟩ | ⟨dir, -, rfl⟩ := exec_next_cases he
  · exact .of_valid (by simp) h.valid
  · exact scheduleSound_execKeyexp hk
  · exact .of_valid (by simp) h.valid

/-- The expander's next word is the expansion's, if EK holds the expansion's words before it (R195 LOAD, GEN, CLEAR). -/
theorem Inv.expanderWord_eq {s : State} (h : Inv s) (hp : s.phase = .keyexp) (hi : s.kxI.toNat < 60) {ws : List Word}
    (hws : expandedStore s.key s.kxNk.toNat = some ws) (hpre : ∀ i, i < s.kxI.toNat → s.ek[i]? = ws[i]?) :
    expanderWord s = ws[s.kxI.toNat]? := by
  obtain ⟨-, hnk, hnr, -⟩ := h.expander hp
  obtain ⟨-, hsched, htail⟩ := expandedStore_spec ((legalNk_iff _).1 hnk) hws
  rw [← hnk.nr_toNat, ← hnr] at hsched htail
  by_cases hlt : s.kxI.toNat < schedWords s.kxNr.toNat
  · rw [hsched _ hlt, expanderWord, if_pos (.inr hlt)]
    exact scheduleWord_congr hpre
  · rw [h.expanderWord_past_schedule hp (by omega), htail _ (by omega) hi]

theorem ScheduleSound.stepKeyexp {s t : State} (hinv : Inv s) (h : ScheduleSound s) (hp : s.phase = .keyexp)
    (he : stepKeyexp s = .next t) : ScheduleSound t := by
  obtain ⟨hkv, hnk, -, -⟩ := hinv.expander hp
  obtain ⟨ws, hws, hpre⟩ := h.partway hp
  obtain ⟨hd, hs⟩ | ⟨w, hi, -, hw, hs⟩ | ⟨-, -, hs⟩ := stepKeyexp_cases s <;> cases hs.symm.trans he
  · obtain ⟨-, -, h60⟩ := (expanderDone_iff s).1 hd
    obtain ⟨hlen, -, -⟩ := expandedStore_spec ((legalNk_iff _).1 hnk) hws
    have hall : s.ek.toList = ws := by
      refine List.ext_getElem? fun i => ?_
      by_cases hi : i < 60
      · rw [← hpre i (by omega)]
        simp
      · rw [List.getElem?_eq_none (by simpa using hi), List.getElem?_eq_none (by omega)]
    exact .of_valid (by simp) fun _ => ⟨s.key, hall ▸ hws⟩
  · have hnext := hinv.expanderWord_eq hp hi hws hpre
    refine ⟨by simp [hkv], fun _ => ⟨ws, hws, fun i hlt => ?_⟩⟩
    simp only [kxI_succ_toNat hi] at hlt
    by_cases hieq : s.kxI.toNat = i
    · subst hieq
      simp [← hnext, hw]
    · simpa [Vector.getElem?_set, hieq] using hpre i (by omega)

theorem ScheduleSound.stepCipher {s t : State} (h : ScheduleSound s) (hp : s.phase = .cipher)
    (he : stepCipher s = .next t) : ScheduleSound t := by
  obtain ⟨-, -, hs⟩ | ⟨-, -, hs⟩ | ⟨-, hs⟩ := stepCipher_cases s <;> cases hs.symm.trans he
  · exact .of_valid (by simp) h.valid
  · exact .of_valid (by simp [hp]) h.valid

theorem ScheduleSound.engineStep {s t : State} (hinv : Inv s) (h : ScheduleSound s) (he : engineStep s = .next t) :
    ScheduleSound t := by
  obtain ⟨-, hs⟩ | ⟨-, i, -, hs⟩ | ⟨-, e, -, hs⟩ | ⟨hp, hs⟩ | ⟨hp, hs⟩ := engineStep_cases s <;> rw [hs] at he
  · cases he; exact h
  · exact h.exec he
  · cases he; exact h.finish 1
  · exact h.stepKeyexp hinv hp he
  · exact h.stepCipher hp he

theorem scheduleSound_reset : ScheduleSound State.reset := .of_valid (by simp [State.reset]) (by simp [State.reset])

/-- The expander's steps need the invariant, so the two are kept together. -/
theorem hostKeeps_inv_and_scheduleSound : HostKeeps fun s => Inv s ∧ ScheduleSound s where
  record s ms rs n h := ⟨hostKeeps_inv.record s ms rs n h.1, hostKeeps_scheduleSound.record s ms rs n h.2⟩
  overrun s h := ⟨hostKeeps_inv.overrun s h.1, hostKeeps_scheduleSound.overrun s h.2⟩
  write s v r hadm h := ⟨hostKeeps_inv.write s v r hadm h.1, hostKeeps_scheduleSound.write s v r hadm h.2⟩

/-- Settles O46: the host, reset and each phase of the engine's step keep it, the expander by `Inv.expanderWord_eq`. -/
theorem scheduleSoundnessIsKept : Obligations.ScheduleSoundnessIsKept := by
  intro s t hinv h hs
  have engine : ∀ s t : State, Inv s ∧ ScheduleSound s → engineStep s = .next t → Inv t ∧ ScheduleSound t :=
    fun _ _ ⟨hi, hss⟩ he => ⟨hi.engineStep he, hss.engineStep hi he⟩
  exact (hostKeeps_inv_and_scheduleSound.step ⟨inv_reset, scheduleSound_reset⟩ engine ⟨hinv, h⟩ hs).2

end Sys2Proof.Machine

/-! # The register window: the map of writes and reads, access rules, and the host beside a running command

First the window's map (`regAt`) and one rule per access (`writes_of_taken`, `writes_of_dropped`, `reads_of_defined`,
`busRead_eq`, `waitTurn_eq`); then each statement. -/

namespace Sys2Proof.Machine

/-! ## The map of the window (R30, R41, R87, R88) -/

theorem regAt_key (j : Fin 8) : regAt (0x010 + 4 * j.val) = .key j := by decide +revert

theorem regAt_state (c : Fin 4) : regAt (0x030 + 4 * c.val) = .state c := by decide +revert

theorem regAt_expkey (i : Fin 60) : regAt (0x100 + 4 * i.val) = .expkey i := by decide +revert

/-- The offsets of a register, whichever word of an array it is (R30). -/
def Reg.covers : Reg → Nat → Prop
  | .ctrl, off => off = 0x000
  | .status, off => off = 0x004
  | .inten, off => off = 0x008
  | .keylen, off => off = 0x00C
  | .key _, off => 0x010 ≤ off ∧ off < 0x030
  | .state _, off => 0x030 ≤ off ∧ off < 0x040
  | .gfop, off => off = 0x040
  | .gfres, off => off = 0x044
  | .expkey _, off => 0x100 ≤ off ∧ off < 0x1F0
  | .reserved, off => 0x048 ≤ off ∧ off < 0x100 ∨ 0x1F0 ≤ off

theorem regAt_covers {off : Nat} (h4 : off % 4 = 0) : (regAt off).covers off := by
  rw [regAt]
  repeat' split
  all_goals simp only [Reg.covers]; omega

theorem regAt_reserved {off : Nat} (h4 : off % 4 = 0)
    (h : 0x048 ≤ off ∧ off < 0x100 ∨ 0x1F0 ≤ off ∧ off < 0x200) : regAt off = .reserved := by
  have hc := regAt_covers h4
  cases hr : regAt off with
  | reserved => rfl
  | ctrl | status | inten | keylen | key | state | gfop | gfres | expkey =>
    simp only [hr, Reg.covers] at hc
    omega

theorem drawnWhileBusy_regAt {off : Nat} (h4 : off % 4 = 0)
    (h : 0x030 ≤ off ∧ off < 0x040 ∨ off = 0x044 ∨ 0x100 ≤ off ∧ off < 0x1F0) :
    drawnWhileBusy (regAt off) = true := by
  have hc := regAt_covers h4
  cases hr : regAt off with
  | state | gfres | expkey => rfl
  | ctrl | status | inten | keylen | key | gfop | reserved =>
    simp only [hr, Reg.covers] at hc
    omega

theorem writableWhileBusy_iff (r : Reg) : writableWhileBusy r = true ↔ r = .status ∨ r = .inten := by
  cases r <;> simp [writableWhileBusy]

theorem not_writableWhileBusy_regAt {off : Nat} (h4 : off % 4 = 0) (hst : off ≠ 0x004) (hin : off ≠ 0x008) :
    writableWhileBusy (regAt off) = false := by
  have hc := regAt_covers h4
  cases hr : regAt off with
  | status | inten => simp only [hr, Reg.covers] at hc; omega
  | ctrl | keylen | key | state | gfop | gfres | expkey | reserved => rfl

/-- GFRES, EXPKEY and the reserved offsets ignore writes (R87). -/
theorem writeReg_readOnly (s : State) (v : Word) {off : Nat} (h4 : off % 4 = 0) (h : 0x044 ≤ off) :
    writeReg s v (regAt off) = s := by
  have hc := regAt_covers h4
  cases hr : regAt off with
  | gfres | expkey | reserved => rfl
  | ctrl | status | inten | keylen | key | state | gfop =>
    simp only [hr, Reg.covers] at hc
    omega

theorem writeReg_ovr (s : State) (v : Word) {r : Reg} (h : r ≠ .status) : (writeReg s v r).ovr = s.ovr := by
  cases r with
  | status => exact absurd rfl h
  | ctrl | inten | keylen | key | state | gfop | gfres | expkey | reserved => simp [writeReg]

/-! ## One column of the state block (R38, R87) -/

theorem setColumn_getElem? (st : Block) (c : Fin 4) (v : Word) {i : Nat} (hi : i < 16) :
    (setColumn st c v)[i]? = some (if i / 4 = c.val then byteOf v (i % 4) else st[i]) := by
  rw [Vector.getElem?_eq_getElem hi]
  simp only [setColumn, Vector.getElem_ofFn, Fin.getElem_fin]

theorem setColumn_byte (st : Block) (c : Fin 4) (v : Word) {k : Nat} (hk : k < 4) :
    (setColumn st c v)[4 * c.val + k]? = some (byteOf v k) := by
  have hcol : (4 * c.val + k) / 4 = c.val := by omega
  have hrow : (4 * c.val + k) % 4 = k := by omega
  rw [setColumn_getElem? st c v (by omega), if_pos hcol, hrow]

theorem setColumn_other (st : Block) (c : Fin 4) (v : Word) {i : Nat} (hc : i / 4 ≠ c.val) :
    (setColumn st c v)[i]? = st[i]? := by
  by_cases hi : i < 16
  · rw [setColumn_getElem? st c v hi, if_neg hc, Vector.getElem?_eq_getElem hi]
  · rw [Vector.getElem?_eq_none (by omega), Vector.getElem?_eq_none (by omega)]

/-! ## One access of the host's (R85 to R88, R118) -/

theorem busWrite_replies (reg : Reg) (v : Word) (s : State) :
    (busWrite reg v s).replies = .written :: s.replies := by
  obtain ⟨-, -, hw⟩ | ⟨-, hw⟩ := busWrite_cases reg v s <;> rw [hw]
  obtain ⟨-, -, -, -, -, -, -, -, -, -, -, hrep, -⟩ := writeReg_frame s v reg
  rw [answer_replies, hrep]

/-- A write that the engine lets through does what `writeReg` says. -/
theorem writes_of_taken {off : Nat} {s : State} (v : Word) (h : off < 0x200) (h4 : off % 4 = 0)
    (ht : busy s = false ∨ writableWhileBusy (regAt off) = true) : writes off v s (writeReg s v (regAt off)) := by
  obtain ⟨-, -, -, -, -, -, -, -, -, -, -, hrep, -⟩ := writeReg_frame s v (regAt off)
  refine ⟨.written, ?_⟩
  obtain ⟨hb, hw, -⟩ | ⟨-, ha⟩ := busWrite_cases (regAt off) v s
  · simp [hb, hw] at ht
  · rw [stepWith_wr v s h h4, ha, answer, hrep]

/-- Any other write is dropped and counts as an overrun (R88). -/
theorem writes_of_dropped {off : Nat} {s : State} (v : Word) (h : off < 0x200) (h4 : off % 4 = 0)
    (hb : busy s = true) (hw : writableWhileBusy (regAt off) = false) : writes off v s { s with ovr := true } := by
  refine ⟨.written, ?_⟩
  obtain ⟨-, -, ha⟩ | ⟨ht, -⟩ := busWrite_cases (regAt off) v s
  · rw [stepWith_wr v s h h4, ha]
  · simp [hb, hw] at ht

/-- A read whose value is defined gives it (R86). -/
theorem reads_of_defined {off : Nat} {s : State} (h : off < 0x200) (h4 : off % 4 = 0)
    (hd : busy s = false ∨ drawnWhileBusy (regAt off) = false) : reads off (readReg s (regAt off)) s := by
  rw [reads, stepWith_rd s h h4]
  obtain ⟨hb, hdr, -⟩ | ⟨-, hr⟩ := busRead_cases (regAt off) s
  · simp [hb, hdr] at hd
  · rw [hr]

/-- A read of a result register while busy gives the next free value (R41). -/
theorem stepWith_rd_drawn {off : Nat} {s : State} (h : off < 0x200) (h4 : off % 4 = 0) (hb : busy s = true)
    (hd : drawnWhileBusy (regAt off) = true) :
    stepWith (HostProgram.rd off) s =
      .next { s with replies := .data (Config.draw s.draws) :: s.replies, draws := s.draws + 1 } := by
  rw [stepWith_rd s h h4]
  obtain ⟨-, -, hr⟩ | ⟨hn, -⟩ := busRead_cases (regAt off) s
  · rw [hr]
  · simp [hb, hd] at hn

/-- Whatever a read gives, it touches only the model's own records (R85). -/
theorem busRead_eq (reg : Reg) (s : State) :
    ∃ w n, busRead reg s = { s with replies := .data w :: s.replies, draws := n } := by
  obtain ⟨-, -, hr⟩ | ⟨-, hr⟩ := busRead_cases reg s <;> exact ⟨_, _, hr⟩

/-- A turn of `wait` is a read of STATUS, and perhaps more moves to come (R118). -/
theorem waitTurn_eq (s : State) :
    ∃ w ms n, waitTurn s = { s with moves := ms, replies := .data w :: s.replies, draws := n } := by
  obtain ⟨w, n, hr⟩ := busRead_eq .status s
  rw [waitTurn, hr]
  split
  · exact ⟨w, _, n, rfl⟩
  · exact ⟨w, _, n, rfl⟩

theorem busAccess_answers (a : Access) (s : State) : ∃ r, (busAccess a s).replies = r :: s.replies := by
  obtain ⟨-, ha⟩ | ⟨off, -, ⟨-, ha⟩ | ⟨-, -, -, ha⟩ | ⟨v, -, -, -, ha⟩⟩ := busAccess_cases a s <;> rw [ha]
  · exact ⟨_, rfl⟩
  · exact ⟨_, rfl⟩
  · obtain ⟨w, n, hr⟩ := busRead_eq (regAt off) s
    exact ⟨.data w, by rw [hr]⟩
  · exact ⟨.written, busWrite_replies (regAt off) v s⟩

/-! ## Writes -/

/-- Settles O10: idle, every write is taken, and `writeReg` of the register at the offset is the map of R87. -/
theorem idleWritesFollowTheMap : Obligations.IdleWritesFollowTheMap := by
  intro s v hidle
  have taken : ∀ off, off < 0x200 → off % 4 = 0 → writes off v s (writeReg s v (regAt off)) :=
    fun off h h4 => writes_of_taken v h h4 (.inl ((not_busy_iff s).2 hidle))
  refine ⟨taken 0x000 (by decide) rfl, statusWriteClearsDoneAndOvr s v, taken 0x008 (by decide) rfl,
    taken 0x00C (by decide) rfl, fun j hj => ?key, fun c hc => ?column, taken 0x040 (by decide) rfl,
    fun off h4 hge hlt => ?readOnly⟩
  case key =>
    have hw := taken (0x010 + 4 * j) (by omega) (by omega)
    rwa [regAt_key ⟨j, hj⟩] at hw
  case column =>
    have hw := taken (0x030 + 4 * c) (by omega) (by omega)
    rw [regAt_state ⟨c, hc⟩] at hw
    have byte : ∀ k, k < 4 → (setColumn s.st ⟨c, hc⟩ v)[4 * c + k]? = some (byteOf v k) :=
      fun k hk => setColumn_byte s.st ⟨c, hc⟩ v hk
    exact ⟨setColumn s.st ⟨c, hc⟩ v, hw, byte 0 (by decide), byte 1 (by decide), byte 2 (by decide),
      byte 3 (by decide), fun i hi => setColumn_other s.st ⟨c, hc⟩ v hi⟩
  case readOnly =>
    have hw := taken off hlt h4
    rwa [writeReg_readOnly s v h4 hge] at hw

/-- What no step of the engine's writes: the host's own registers, CMD_LAST, OVR, the model's records (R112, R284). -/
structure EngineLeaves (s t : State) : Prop where
  cmdLast : t.cmdLast = s.cmdLast
  ovr : t.ovr = s.ovr
  doneIe : t.doneIe = s.doneIe
  klen : t.klen = s.klen
  key : t.key = s.key
  gfA : t.gfA = s.gfA
  gfB : t.gfB = s.gfB
  moves : t.moves = s.moves
  replies : t.replies = s.replies
  draws : t.draws = s.draws

theorem stepKeyexp_leaves {s t : State} (h : stepKeyexp s = .next t) : EngineLeaves s t := by
  obtain ⟨-, hs⟩ | ⟨w, hi, -, -, hs⟩ | ⟨-, -, hs⟩ := stepKeyexp_cases s <;> cases hs.symm.trans h <;>
    constructor <;> rfl

theorem stepCipher_leaves {s t : State} (h : stepCipher s = .next t) : EngineLeaves s t := by
  obtain ⟨-, -, hs⟩ | ⟨-, -, hs⟩ | ⟨-, hs⟩ := stepCipher_cases s <;> cases hs.symm.trans h <;> constructor <;> rfl

theorem execKeyexp_leaves {s t : State} (h : execKeyexp s = .next t) : EngineLeaves s t := by
  obtain ⟨-, hs⟩ | ⟨-, hs⟩ := execKeyexp_cases s <;> cases hs.symm.trans h <;> constructor <;> rfl

theorem exec_leaves {i : Instr} {s t : State} (h : exec i s = .next t) : EngineLeaves s t := by
  obtain ⟨code, st, p, -, -, rfl⟩ | ⟨-, hk⟩ | ⟨dir, -, rfl⟩ := exec_next_cases h
  · constructor <;> rfl
  · exact execKeyexp_leaves hk
  · constructor <;> rfl

theorem engineStep_leaves {s t : State} (h : engineStep s = .next t) : EngineLeaves s t := by
  obtain ⟨-, he⟩ | ⟨-, i, -, he⟩ | ⟨-, e, -, he⟩ | ⟨-, he⟩ | ⟨-, he⟩ := engineStep_cases s <;> rw [he] at h
  · cases h; constructor <;> rfl
  · exact exec_leaves h
  · cases h; constructor <;> rfl
  · exact stepKeyexp_leaves h
  · exact stepCipher_leaves h

/-- A register write clears OVR only in STATUS, by bit 3 (R34); a dropped one sets it. -/
theorem busWrite_clears_ovr {off : Nat} {v : Word} {s : State} (h4 : off % 4 = 0) (hovr : s.ovr = true)
    (hclear : (busWrite (regAt off) v s).ovr = false) : off = 0x004 ∧ v.getLsbD 3 = true := by
  obtain ⟨-, -, hw⟩ | ⟨-, hw⟩ := busWrite_cases (regAt off) v s <;> rw [hw] at hclear
  · cases hclear
  · rw [answer_ovr] at hclear
    by_cases hreg : regAt off = .status
    · have hoff := regAt_covers h4
      rw [hreg] at hoff hclear
      exact ⟨hoff, by simpa [writeReg, hovr] using hclear⟩
    · rw [writeReg_ovr s v hreg, hovr] at hclear
      cases hclear

theorem busAccess_clears_ovr {a : Access} {s : State} (hovr : s.ovr = true) (hclear : (busAccess a s).ovr = false) :
    ∃ v : Word, isWrite (.access a) 0x004 v ∧ v.getLsbD 3 = true := by
  obtain ⟨-, ha⟩ | ⟨off, hoff, ⟨-, ha⟩ | ⟨-, -, -, ha⟩ | ⟨v, hb, h4, hk, ha⟩⟩ := busAccess_cases a s <;>
    rw [ha] at hclear
  · exact absurd hovr (by simpa using hclear)
  · exact absurd hovr (by simpa using hclear)
  · obtain ⟨w, n, hr⟩ := busRead_eq (regAt off) s
    rw [hr] at hclear
    exact absurd hovr (by simpa using hclear)
  · obtain ⟨rfl, hbit⟩ := busWrite_clears_ovr h4 hovr hclear
    exact ⟨v, ⟨a, rfl, hoff, hb, h4, hk⟩, hbit⟩

/-- Settles O11: `writableWhileBusy` sorts the writes; OVR falls by no engine step and no access but a STATUS write. -/
theorem busyWritesAreDropped : Obligations.BusyWritesAreDropped := by
  refine ⟨fun s v hp => ⟨statusWriteClearsDoneAndOvr s v, ?inten, fun off h4 hlt hst hin => ?dropped⟩,
    fun s t m hovr hs hclear => ?sticky⟩
  case inten => exact writes_of_taken v (off := 0x008) (by decide) rfl (.inr rfl)
  case dropped =>
    exact writes_of_dropped v hlt h4 ((busy_iff s).2 hp) (not_writableWhileBusy_regAt h4 hst hin)
  case sticky =>
    cases m with
    | reset => exact .inl rfl
    | engine =>
      have hkept := (engineStep_leaves hs).ovr
      simp [hovr, hclear] at hkept
    | access a =>
      cases hs
      exact .inr (busAccess_clears_ovr hovr hclear)
    | wait =>
      cases hs
      obtain ⟨w, ms, n, hw⟩ := waitTurn_eq s
      rw [hw] at hclear
      exact absurd hovr (by simpa using hclear)

/-! ## Reads -/

/-- Settles O13: `readReg` of the register at the offset is the map of R86, `drawnWhileBusy` says where R41 applies. -/
theorem readsFollowTheMap : Obligations.ReadsFollowTheMap := by
  intro s
  refine ⟨reads_of_defined (off := 0x000) (by decide) rfl (.inr rfl),
    reads_of_defined (off := 0x004) (by decide) rfl (.inr rfl),
    reads_of_defined (off := 0x008) (by decide) rfl (.inr rfl),
    reads_of_defined (off := 0x00C) (by decide) rfl (.inr rfl), fun j hj => ?key,
    reads_of_defined (off := 0x040) (by decide) rfl (.inr rfl), fun off h4 h => ?reserved, fun hidle => ?idle,
    fun hp off h4 h => ?busy⟩
  case key =>
    have hreg := regAt_key ⟨j, hj⟩
    have hr := reads_of_defined (s := s) (off := 0x010 + 4 * j) (by omega) (by omega) (.inr (by rw [hreg]; rfl))
    rwa [hreg] at hr
  case reserved =>
    have hreg := regAt_reserved h4 h
    have hr := reads_of_defined (s := s) (off := off) (by omega) h4 (.inr (by rw [hreg]; rfl))
    rwa [hreg] at hr
  case idle =>
    have hdef : ∀ off, off < 0x200 → off % 4 = 0 → reads off (readReg s (regAt off)) s :=
      fun off h h4 => reads_of_defined h h4 (.inl ((not_busy_iff s).2 hidle))
    refine ⟨fun c hc => ?_, hdef 0x044 (by decide) rfl, fun i hi => ?_⟩
    · have hr := hdef (0x030 + 4 * c) (by omega) (by omega)
      rwa [regAt_state ⟨c, hc⟩] at hr
    · have hr := hdef (0x100 + 4 * i) (by omega) (by omega)
      rwa [regAt_expkey ⟨i, hi⟩] at hr
  case busy =>
    exact stepWith_rd_drawn (by omega) h4 ((busy_iff s).2 hp) (drawnWhileBusy_regAt h4 h)

/-- Settles O15, by `busRead_eq`. -/
theorem readsChangeNoEngineState : Obligations.ReadsChangeNoEngineState := by
  intro s off h4 hlt
  obtain ⟨w, n, hr⟩ := busRead_eq (regAt off) s
  exact ⟨w, n, by rw [stepWith_rd s hlt h4, hr]⟩

/-! ## Which accesses are admitted (R84) -/

theorem windowOffset_eq_sub {addr : Nat} (h : Config.aesBase ≤ addr ∧ addr < Config.aesBase + 0x200) :
    windowOffset addr = some (addr - Config.aesBase) := by
  rw [windowOffset, if_pos h]

theorem busAccess_not_admitted {a : Access} {off : Nat} (s : State) (h : windowOffset a.addr = some off)
    (hn : ¬ (a.bytes = 4 ∧ off % 4 = 0)) : busAccess a s = answer (.busError Config.busError) s := by
  simp [busAccess, h, admitted, hn]

/-- Settles O14: the three ways `busAccess` answers, by the window and by `admitted`. -/
theorem accessesNotAdmittedChangeNothing : Obligations.AccessesNotAdmittedChangeNothing := by
  intro s a
  refine ⟨fun hin hn => ?error, fun hin ⟨hb, h4⟩ => ?admitted, fun hout => ?outside⟩
  case error => rw [stepWith_access, busAccess_not_admitted s (windowOffset_eq_sub hin) hn, answer]
  case admitted =>
    rw [stepWith_access, busAccess_admitted s (windowOffset_eq_sub hin) hb h4]
    cases hk : a.kind with
    | read =>
      obtain ⟨w, n, hr⟩ := busRead_eq (regAt (a.addr - Config.aesBase)) s
      exact ⟨_, .data w, rfl, by rw [hr], by simp, fun _ => ⟨w, rfl⟩⟩
    | write v => exact ⟨_, .written, rfl, busWrite_replies _ v s, by simp, by simp⟩
  case outside =>
    have hnone := windowOffset_eq_none.2 hout
    exact ⟨.notDecoded, by rw [stepWith_access, busAccess, hnone, answer], by simp⟩

/-! ## The host beside a running command (R88, R285) -/

/-- What the host leaves alone of a running command: it reaches STATUS and INTEN only, which hold neither. -/
theorem hostKeeps_engineView {s : State} (hp : s.phase ≠ .idle) :
    HostKeeps fun t => engineView t = engineView s ∧ t.err = s.err where
  record _ _ _ _ h := h
  overrun _ h := h
  write t v r hadm h := by
    have hphase : t.phase = s.phase := congrArg EngineView.phase h.1
    have hb : busy t = true := (busy_iff t).2 (hphase ▸ hp)
    obtain rfl | rfl : r = .status ∨ r = .inten :=
      (writableWhileBusy_iff r).1 (hadm.resolve_left (by simp [hb]))
    · exact h
    · exact h

/-- Settles O50: every access keeps the engine's view, by `hostKeeps_engineView`, and gets one answer. -/
theorem hostAccessesLeaveARunningCommandAlone : Obligations.HostAccessesLeaveARunningCommandAlone := by
  intro s m hp hm
  have keeps := hostKeeps_engineView hp
  obtain rfl | ⟨a, rfl⟩ := hm
  · obtain ⟨hview, herr⟩ := keeps.waitTurn (s := s) ⟨rfl, rfl⟩
    obtain ⟨w, ms, n, hw⟩ := waitTurn_eq s
    exact ⟨waitTurn s, .data w, stepWith_wait s, hview, herr, by rw [hw]⟩
  · obtain ⟨hview, herr⟩ := keeps.busAccess (s := s) a ⟨rfl, rfl⟩
    obtain ⟨r, hr⟩ := busAccess_answers a s
    exact ⟨busAccess a s, r, stepWith_access a s, hview, herr, hr⟩

/-! ## No step stops from a good state (R82, R254) -/

/-- No schedule in EK has more than 14 rounds (R33). -/
theorem Inv.ekNr_le {s : State} (h : Inv s) (hk : s.keyValid = true) : s.ekNr.toNat ≤ 14 := by
  obtain ⟨hnk, hnr⟩ := h.schedule hk
  rw [hnr, hnk.nr_toNat, nrOf]
  have := (legalNk_iff _).1 hnk
  omega

theorem exec_isNext_of_inv {s : State} (h : Inv s) (i : Instr) : ∃ t, exec i s = .next t := by
  cases i with
  | nop | sb | isb | sr | isr | mc | imc | gfmul => exact ⟨_, rfl⟩
  | keyexp => obtain ⟨-, hs⟩ | ⟨-, hs⟩ := execKeyexp_cases s <;> exact ⟨_, hs⟩
  | enc => obtain ⟨-, hs⟩ | ⟨-, hs⟩ := startCipher_cases .encrypt s <;> exact ⟨_, hs⟩
  | dec => obtain ⟨-, hs⟩ | ⟨-, hs⟩ := startCipher_cases .decrypt s <;> exact ⟨_, hs⟩
  | ark r =>
    obtain ⟨-, hs⟩ | ⟨-, -, hs⟩ | ⟨-, -, -, hs⟩ | ⟨hk, hle, hgt, -⟩ := execArk_cases r s
    · exact ⟨_, hs⟩
    · exact ⟨_, hs⟩
    · exact ⟨_, hs⟩
    · have := h.ekNr_le hk
      omega

/-- Below 60 the expander finds every word it reads: in KEY, in EK below KX_I, in RCON (R195). -/
theorem Inv.expanderWord_isSome {s : State} (h : Inv s) (hp : s.phase = .keyexp) (hi : s.kxI.toNat < 60) :
    (expanderWord s).isSome = true := by
  obtain ⟨-, hnk, -, -⟩ := h.expander hp
  have hbefore : ∀ j, j < s.kxI.toNat → s.ek[j]? = (s.ek.toList.take s.kxI.toNat)[j]? := by
    intro j hj
    rw [List.getElem?_take_of_lt hj, Vector.getElem?_toList]
  rw [expanderWord]
  split
  · rw [scheduleWord_congr hbefore]
    exact scheduleWord_isSome ((legalNk_iff _).1 hnk) hi (by simp; omega)
  · rfl

theorem stepKeyexp_isNext_of_inv {s : State} (h : Inv s) (hp : s.phase = .keyexp) : ∃ t, stepKeyexp s = .next t := by
  obtain ⟨-, hnk, hnr, -⟩ := h.expander hp
  obtain ⟨-, hs⟩ | ⟨w, hi, -, -, hs⟩ | ⟨hd, hstop, -⟩ := stepKeyexp_cases s
  · exact ⟨_, hs⟩
  · exact ⟨_, hs⟩
  · exfalso
    have hlt : s.kxI.toNat < 60 := by
      by_contra hge
      have hdone : expanderDone s = true := by
        rw [expanderDone_iff, hnr, hnk.nr_toNat, nrOf]
        have := (legalNk_iff _).1 hnk
        omega
      simp [hd] at hdone
    obtain hnone | hge := hstop
    · simpa [hnone] using h.expanderWord_isSome hp hlt
    · omega

theorem stepCipher_isNext_of_inv {s : State} (h : Inv s) (hp : s.phase = .cipher) : ∃ t, stepCipher s = .next t := by
  obtain ⟨hk, hrc⟩ := h.sequencer hp
  have hnr := h.ekNr_le hk
  obtain ⟨-, -, hs⟩ | ⟨-, -, hs⟩ | ⟨hout, -⟩ := stepCipher_cases s
  · exact ⟨_, hs⟩
  · exact ⟨_, hs⟩
  · omega

theorem engineStep_isNext_of_inv {s : State} (h : Inv s) : ∃ t, engineStep s = .next t := by
  obtain ⟨-, he⟩ | ⟨-, i, -, he⟩ | ⟨-, e, -, he⟩ | ⟨hp, he⟩ | ⟨hp, he⟩ := engineStep_cases s <;> rw [he]
  · exact ⟨_, rfl⟩
  · exact exec_isNext_of_inv h i
  · exact ⟨_, rfl⟩
  · exact stepKeyexp_isNext_of_inv h hp
  · exact stepCipher_isNext_of_inv h hp

/-- Settles O45: only the engine's own step can stop, and from a good state it does not. -/
theorem noStepStopsFromAGoodState : Obligations.NoStepStopsFromAGoodState := by
  intro s h
  obtain ⟨-, hs⟩ | ⟨ms, -, hs⟩ | ⟨a, ms, -, hs⟩ | ⟨ms, -, hs⟩ | ⟨ms, -, hs⟩ := step_cases s <;> rw [hs]
  · exact engineStep_isNext_of_inv h
  · exact engineStep_isNext_of_inv (hostKeeps_inv.record s ms _ _ h)
  · exact ⟨_, rfl⟩
  · exact ⟨_, rfl⟩
  · exact ⟨_, rfl⟩

end Sys2Proof.Machine

/-! # Encoding and host programs: the decoder, the opcode map, the illegal words, `wait`, `ldst`, `rdst`, `ldkey`

A word is its three fields (`word_ext_iff`), and `decode_eq_ok_iff` and `decode_eq_error_iff` say once, field by field,
what it decodes to; the statements about words read off these. Those about the host's programs follow the list of moves
(`run_each`), and `wait` the steps left of the command (`engineStep_stepsLeft`). -/

namespace Sys2Proof

/-! ## A word is its three fields (R110) -/

theorem word_ext_iff {w v : Word} :
    w = v ↔ rsvdField w = rsvdField v ∧ roundField w = roundField v ∧ opField w = opField v := by
  refine ⟨fun h => h ▸ ⟨rfl, rfl, rfl⟩, fun ⟨hrsvd, hround, hop⟩ => ?_⟩
  simp only [rsvdField, roundField, opField, ← BitVec.toNat_inj, BitVec.extractLsb'_toNat,
    Nat.shiftRight_eq_div_pow] at *
  omega

theorem rsvdField_and (w v : Word) : rsvdField (w &&& v) = rsvdField w &&& rsvdField v := BitVec.extractLsb'_and

theorem roundField_and (w v : Word) : roundField (w &&& v) = roundField w &&& roundField v := BitVec.extractLsb'_and

theorem opField_and (w v : Word) : opField (w &&& v) = opField w &&& opField v := BitVec.extractLsb'_and

/-- What a mask leaves of a word is compared field by field. -/
theorem and_eq_iff (w mask v : Word) :
    w &&& mask = v ↔ rsvdField w &&& rsvdField mask = rsvdField v ∧ roundField w &&& roundField mask = roundField v ∧
      opField w &&& opField mask = opField v := by
  rw [word_ext_iff, rsvdField_and, roundField_and, opField_and]

theorem rsvdField_eq_zero_iff (w : Word) : rsvdField w = 0 ↔ w >>> 12 = 0 := by
  simp only [rsvdField, ← BitVec.toNat_inj, BitVec.extractLsb'_toNat, BitVec.toNat_ushiftRight,
    Nat.shiftRight_eq_div_pow, BitVec.ofNat_eq_ofNat, BitVec.toNat_ofNat]
  omega

theorem roundField_eq_zero_iff (w : Word) : roundField w = 0 ↔ w &&& 0xF00 = 0 := by
  have hrsvd : rsvdField 0xF00 = 0#20 := rfl
  have hround : roundField 0xF00 = BitVec.allOnes 4 := rfl
  have hop : opField 0xF00 = 0#8 := rfl
  rw [and_eq_iff, hrsvd, hround, hop, BitVec.and_zero, BitVec.and_allOnes, BitVec.and_zero]
  exact ⟨fun h => ⟨rfl, h, rfl⟩, fun h => h.2.1⟩

theorem roundField_toNat (w : Word) : (roundField w).toNat = w.toNat / 2 ^ 8 % 2 ^ 4 := by
  rw [roundField, BitVec.extractLsb'_toNat, Nat.shiftRight_eq_div_pow]

theorem opField_toNat (w : Word) : (opField w).toNat = (w &&& 0xFF).toNat := by
  rw [opField, BitVec.extractLsb'_toNat, Nat.shiftRight_zero, BitVec.toNat_and]
  exact (Nat.and_two_pow_sub_one_eq_mod w.toNat 8).symm

theorem opField_eq_ark_iff (w : Word) : opField w = 0x04 ↔ w &&& 0xFF = 0x04 := by
  rw [← BitVec.toNat_inj, ← BitVec.toNat_inj, opField_toNat]
  rfl

/-! ## The branches of the decoder (R114) -/

section
variable {w : Word}

theorem decode_of_rsvd (hrsvd : rsvdField w ≠ 0) : decode w = .error .reservedField := if_pos hrsvd

theorem decode_of_ark (hrsvd : rsvdField w = 0) (hop : opField w = 0x04) :
    decode w = .ok (.ark (roundField w).toNat) := by
  rw [decode, if_neg (not_not_intro hrsvd), if_pos hop]

theorem decode_of_round (hrsvd : rsvdField w = 0) (hop : opField w ≠ 0x04) (hround : roundField w ≠ 0) :
    decode w = .error .roundField := by
  rw [decode, if_neg (not_not_intro hrsvd), if_neg hop, if_pos hround]

theorem decode_of_op (hrsvd : rsvdField w = 0) (hop : opField w ≠ 0x04) (hround : roundField w = 0) :
    decode w = decodeOp (opField w).toNat := by
  rw [decode, if_neg (not_not_intro hrsvd), if_neg hop, if_neg (not_not_intro hround)]

end

/-! ## What a word decodes to (R114, R115) -/

/-- The rows of R113 with no operand, from operation code to command. -/
theorem decodeOp_eq_ok_iff {n : Nat} {i : Instr} : decodeOp n = .ok i ↔ (opcode i).toNat = n ∧ ∀ r, i ≠ .ark r := by
  constructor
  · intro h
    unfold decodeOp at h
    split at h <;> cases h <;> exact ⟨rfl, nofun⟩
  · rintro ⟨rfl, hark⟩
    cases i with
    | ark r => exact absurd rfl (hark r)
    | nop | keyexp | enc | dec | sb | isb | sr | isr | mc | imc | gfmul => rfl

theorem decodeOp_eq_error_iff {n : Nat} : (∃ e, decodeOp n = .error e) ↔ n = 0x04 ∨ 0x0C ≤ n := by
  by_cases hn : n < 0x0C
  · interval_cases n <;> simp [decodeOp]
  · obtain ⟨m, rfl⟩ := Nat.exists_eq_add_of_le' (Nat.le_of_not_lt hn)
    exact ⟨fun _ => .inr (Nat.le_add_left _ _), fun _ => ⟨_, rfl⟩⟩

theorem opcode_eq_ark_iff {i : Instr} : opcode i = 0x04 ↔ ∃ r, i = .ark r := by
  cases i with
  | ark r => exact ⟨fun _ => ⟨r, rfl⟩, fun _ => rfl⟩
  | nop | keyexp | enc | dec | sb | isb | sr | isr | mc | imc | gfmul => simp [opcode]

theorem roundOperand_eq_zero {i : Instr} (h : ∀ r, i ≠ .ark r) : roundOperand i = 0 := by
  cases i with
  | ark r => exact absurd rfl (h r)
  | nop | keyexp | enc | dec | sb | isb | sr | isr | mc | imc | gfmul => rfl

theorem wellFormed_iff (i : Instr) : i.wellFormed = true ↔ roundOperand i < 16 := by
  cases i with
  | ark r => simp [Instr.wellFormed, roundOperand]
  | nop | keyexp | enc | dec | sb | isb | sr | isr | mc | imc | gfmul => simp [Instr.wellFormed, roundOperand]

/-- A word decodes to a command by its three fields, each the command's own (R110, R113). -/
theorem decode_eq_ok_iff {w : Word} {i : Instr} :
    decode w = .ok i ↔ rsvdField w = 0 ∧ (roundField w).toNat = roundOperand i ∧ opField w = opcode i := by
  constructor
  · intro h
    by_cases hrsvd : rsvdField w = 0
    swap
    · cases (decode_of_rsvd hrsvd).symm.trans h
    by_cases hop : opField w = 0x04
    · cases (decode_of_ark hrsvd hop).symm.trans h
      exact ⟨hrsvd, rfl, hop⟩
    by_cases hround : roundField w = 0
    swap
    · cases (decode_of_round hrsvd hop hround).symm.trans h
    obtain ⟨hcode, hark⟩ := decodeOp_eq_ok_iff.1 ((decode_of_op hrsvd hop hround).symm.trans h)
    exact ⟨hrsvd, by rw [hround, roundOperand_eq_zero hark]; rfl, BitVec.eq_of_toNat_eq hcode.symm⟩
  · rintro ⟨hrsvd, hround, hop⟩
    by_cases hark : opField w = 0x04
    · obtain ⟨r, rfl⟩ := opcode_eq_ark_iff.1 (hop.symm.trans hark)
      rw [decode_of_ark hrsvd hark, hround, roundOperand]
    · have hi : ∀ r, i ≠ .ark r := fun r hr => hark (hop.trans (opcode_eq_ark_iff.2 ⟨r, hr⟩))
      rw [roundOperand_eq_zero hi] at hround
      rw [decode_of_op hrsvd hark (BitVec.eq_of_toNat_eq hround), hop]
      exact decodeOp_eq_ok_iff.2 ⟨rfl, hi⟩

/-- A word decodes to no command by its three fields (R115). -/
theorem decode_eq_error_iff {w : Word} :
    (∃ e, decode w = .error e) ↔
      0x0C ≤ (opField w).toNat ∨ rsvdField w ≠ 0 ∨ (roundField w ≠ 0 ∧ opField w ≠ 0x04) := by
  by_cases hrsvd : rsvdField w = 0
  swap
  · exact ⟨fun _ => .inr (.inl hrsvd), fun _ => ⟨_, decode_of_rsvd hrsvd⟩⟩
  by_cases hop : opField w = 0x04
  · simp [decode_of_ark hrsvd hop, hop, hrsvd]
  by_cases hround : roundField w = 0
  swap
  · exact ⟨fun _ => .inr (.inr ⟨hround, hop⟩), fun _ => ⟨_, decode_of_round hrsvd hop hround⟩⟩
  have hop' : (opField w).toNat ≠ 0x04 := fun h => hop (BitVec.eq_of_toNat_eq h)
  rw [decode_of_op hrsvd hop hround, decodeOp_eq_error_iff]
  simp [hop', hrsvd, hround]

/-- The ROUND field of an encoded command (R110, R116). -/
theorem roundField_encode {i : Instr} (h : i.wellFormed = true) : (roundField (encode i)).toNat = roundOperand i := by
  cases i with
  | ark r =>
    have hr : r < 16 := by simpa [Instr.wellFormed] using h
    have all : ∀ r : Fin 16, (roundField (encode (.ark r.val))).toNat = r.val := by decide
    exact all ⟨r, hr⟩
  | nop | keyexp | enc | dec | sb | isb | sr | isr | mc | imc | gfmul => rfl

/-- The other two fields, from the facts stated command by command. -/
theorem encodedFields : (i : Instr) → Laws.EncodedFields.Statement i
  | .nop => Laws.EncodedFields.nop
  | .keyexp => Laws.EncodedFields.keyexp
  | .enc => Laws.EncodedFields.enc
  | .dec => Laws.EncodedFields.dec
  | .ark r => Laws.EncodedFields.ark r
  | .sb => Laws.EncodedFields.sb
  | .isb => Laws.EncodedFields.isb
  | .sr => Laws.EncodedFields.sr
  | .isr => Laws.EncodedFields.isr
  | .mc => Laws.EncodedFields.mc
  | .imc => Laws.EncodedFields.imc
  | .gfmul => Laws.EncodedFields.gfmul

/-- Settles O2: the encoded word has the three fields that decoding asks for. -/
theorem decodeOfEncodeIsTheCommand : Obligations.DecodeOfEncodeIsTheCommand := by
  intro i h
  obtain ⟨hrsvd, hop⟩ := encodedFields i h
  exact decode_eq_ok_iff.2 ⟨hrsvd, roundField_encode h, hop⟩

/-- Settles O3: the word and the encoding of its command agree field by field. -/
theorem encodeOfDecodeIsTheWord : Obligations.EncodeOfDecodeIsTheWord := by
  intro w i h
  obtain ⟨hrsvd, hround, hop⟩ := decode_eq_ok_iff.1 h
  have hwf : i.wellFormed = true := (wellFormed_iff i).2 (hround ▸ (roundField w).isLt)
  obtain ⟨hrsvd', hop'⟩ := encodedFields i hwf
  have hround' := roundField_encode hwf
  exact ⟨hwf, word_ext_iff.2 ⟨hrsvd'.trans hrsvd.symm, BitVec.eq_of_toNat_eq (hround'.trans hround.symm),
    hop'.trans hop.symm⟩⟩

/-! ## The opcode map (R113) -/

/-- The row of a command without an operand: its one word, under the full mask. -/
def fixedRow (i : Instr) : OpcodeRow := ⟨mnemonic i, encode i, 0xFFFFFFFF⟩

/-- The row of ARK, whose mask leaves ROUND free. -/
def arkRow : OpcodeRow := ⟨"ARK", 0x00000004, 0xFFFFF0FF⟩

theorem opcodeTable_eq :
    opcodeTable = [.nop, .keyexp, .enc, .dec].map fixedRow ++ arkRow ::
      [.sb, .isb, .sr, .isr, .mc, .imc, .gfmul].map fixedRow := rfl

theorem mem_opcodeTable {row : OpcodeRow} (h : row ∈ opcodeTable) :
    row = arkRow ∨ ∃ i, (∀ r, i ≠ .ark r) ∧ row = fixedRow i := by
  rw [opcodeTable_eq, List.mem_append, List.mem_cons, List.mem_map, List.mem_map] at h
  have noArk : ∀ is : List Instr, (∀ i ∈ is, opcode i ≠ 0x04) → (∃ i ∈ is, fixedRow i = row) →
      ∃ i, (∀ r, i ≠ .ark r) ∧ row = fixedRow i := by
    rintro is his ⟨i, hi, rfl⟩
    exact ⟨i, fun r hr => his i hi (opcode_eq_ark_iff.2 ⟨r, hr⟩), rfl⟩
  obtain h | rfl | h := h
  · exact .inr (noArk _ (by decide) h)
  · exact .inl rfl
  · exact .inr (noArk _ (by decide) h)

/-- The mnemonic stands in the map at the operation code. -/
theorem opcodeTable_mnemonic (i : Instr) :
    (opcodeTable.map OpcodeRow.mnemonic)[(opcode i).toNat]? = some (mnemonic i) := by
  cases i <;> rfl

/-- No two rows have one mnemonic. -/
theorem opcode_eq_of_mnemonic_eq {i j : Instr} (h : mnemonic i = mnemonic j) : opcode i = opcode j := by
  have hnodup : (opcodeTable.map OpcodeRow.mnemonic).Nodup := by decide
  obtain ⟨hlt, -⟩ := List.getElem?_eq_some_iff.1 (opcodeTable_mnemonic i)
  have hget := (opcodeTable_mnemonic i).trans ((congrArg some h).trans (opcodeTable_mnemonic j).symm)
  exact BitVec.eq_of_toNat_eq ((List.getElem?_inj hlt hnodup).1 hget)

theorem eq_of_opcode_eq {i j : Instr} (hi : ∀ r, i ≠ .ark r) (h : opcode j = opcode i) : j = i := by
  have hj : ∀ r, j ≠ .ark r := fun r hr =>
    (opcode_eq_ark_iff.1 (h.symm.trans (opcode_eq_ark_iff.2 ⟨r, hr⟩))).elim hi
  have hdec := decodeOp_eq_ok_iff.2 ⟨rfl, hj⟩
  rw [h, decodeOp_eq_ok_iff.2 ⟨rfl, hi⟩] at hdec
  exact (Except.ok.inj hdec).symm

theorem selects_arkRow_iff (w : Word) :
    w &&& arkRow.mask = arkRow.pattern ↔ rsvdField w = 0 ∧ opField w = 0x04 := by
  have hrsvd : rsvdField arkRow.mask = BitVec.allOnes 20 := rfl
  have hround : roundField arkRow.mask = 0#4 := rfl
  have hop : opField arkRow.mask = BitVec.allOnes 8 := rfl
  rw [and_eq_iff, hrsvd, hround, hop, BitVec.and_allOnes, BitVec.and_zero, BitVec.and_allOnes]
  exact ⟨fun ⟨h, _, h'⟩ => ⟨h, h'⟩, fun ⟨h, h'⟩ => ⟨h, rfl, h'⟩⟩

/-- Settles O4: ARK's mask asks for RSVD and OP as decoding does, the full mask for the one word of its command. -/
theorem decodeSelectsTheTableRow : Obligations.DecodeSelectsTheTableRow := by
  refine ⟨rfl, fun w row hrow => ?_⟩
  obtain rfl | ⟨i, hi, rfl⟩ := mem_opcodeTable hrow
  · rw [selects_arkRow_iff]
    constructor
    · rintro ⟨hrsvd, hop⟩
      exact ⟨_, decode_of_ark hrsvd hop, rfl⟩
    · rintro ⟨i, hi, hmn⟩
      obtain ⟨hrsvd, -, hop⟩ := decode_eq_ok_iff.1 hi
      exact ⟨hrsvd, hop.trans (opcode_eq_of_mnemonic_eq (j := .ark 0) hmn)⟩
  · have hwf : i.wellFormed = true := (wellFormed_iff i).2 (by simp [roundOperand_eq_zero hi])
    have hmask : w &&& (fixedRow i).mask = w := BitVec.and_allOnes
    rw [hmask]
    constructor
    · rintro rfl
      exact ⟨i, decodeOfEncodeIsTheCommand i hwf, rfl⟩
    · rintro ⟨j, hj, hmn⟩
      obtain rfl := eq_of_opcode_eq hi (opcode_eq_of_mnemonic_eq hmn)
      exact (encodeOfDecodeIsTheWord w _ hj).2.symm

/-! ## The decoder in the arithmetic of the word (R114, R115) -/

/-- Settles O1: words with no free bit, so `decode` computes. -/
theorem tableWordsDecode : Obligations.TableWordsDecode := by
  unfold Obligations.TableWordsDecode
  decide

/-- Settles O5: the clauses are the branches of `decode`, each mask read as its field. -/
theorem decodeFollowsTheFields : Obligations.DecodeFollowsTheFields := by
  intro w
  simp only [ne_eq, ← rsvdField_eq_zero_iff, ← opField_eq_ark_iff, ← roundField_eq_zero_iff, ← opField_toNat,
    ← roundField_toNat]
  refine ⟨fun hrsvd => ⟨_, decode_of_rsvd hrsvd⟩, decode_of_ark,
    fun hrsvd hop hround => ⟨_, decode_of_round hrsvd hop hround⟩, fun hrsvd hop hround hle => ?assigned,
    fun _ _ _ hgt => decode_eq_error_iff.2 (.inl hgt)⟩
  case assigned =>
    cases hd : decode w with
    | error e =>
      obtain hge | hne | ⟨hne, -⟩ := decode_eq_error_iff.1 ⟨e, hd⟩
      · omega
      · exact absurd hrsvd hne
      · exact absurd hround hne
    | ok i =>
      obtain ⟨-, -, hi⟩ := decode_eq_ok_iff.1 hd
      exact ⟨i, rfl, fun r hr => hop (hi.trans (opcode_eq_ark_iff.2 ⟨r, hr⟩)), congrArg _ hi.symm⟩

end Sys2Proof

namespace Sys2Proof.Machine

open HostProgram

/-! ## One move of the host's program with the engine idle (R86, R87, R118) -/

theorem step_of_moves {s : State} {m : Move} {ms : List Move} (hm : s.moves = m :: ms) :
    step s = stepWith m { s with moves := ms } := by
  rw [stepWith, ← hm]

theorem stepWith_wr_idle {s : State} {off : Nat} (v : Word) (hidle : s.phase = .idle) (h : off < 0x200)
    (h4 : off % 4 = 0) : stepWith (wr off v) s = .next (answer .written (writeReg s v (regAt off))) := by
  obtain ⟨hb, -, -⟩ | ⟨-, hw⟩ := busWrite_cases (regAt off) v s
  · exact absurd hidle ((busy_iff s).1 hb)
  · rw [stepWith_wr v s h h4, hw]

/-- A list of moves, one for each entry of a list, each of which the idle engine answers at once. -/
theorem run_each {α : Type} {m : α → Move} {f : α → State → State} (ms : List Move) (k : Nat) (xs : List α) {s : State}
    (hstep : ∀ a ∈ xs, ∀ s, s.phase = .idle → stepWith (m a) s = .next (f a s))
    (hidle : ∀ a s, s.phase = .idle → (f a s).phase = .idle)
    (hmoves : ∀ a s ms, f a { s with moves := ms } = { f a s with moves := ms })
    (hs : s.phase = .idle) (hm : s.moves = xs.map m ++ ms) :
    run (xs.length + k) s = run k (xs.foldl (fun t a => f a t) { s with moves := ms }) := by
  induction xs generalizing s with
  | nil =>
    obtain rfl : s.moves = ms := hm
    rw [List.length_nil, Nat.zero_add, List.foldl_nil]
  | cons a xs ih =>
    have hfirst := (step_of_moves hm).trans (hstep a List.mem_cons_self _ hs)
    calc run (xs.length + 1 + k) s
      _ = run (xs.length + k) (f a { s with moves := xs.map m ++ ms }) := by
        rw [Nat.add_right_comm]
        exact run_succ_of_next _ hfirst
      _ = run k (xs.foldl (fun t a => f a t) { f a { s with moves := xs.map m ++ ms } with moves := ms }) :=
        ih (fun b hb => hstep b (List.mem_cons_of_mem a hb)) (hidle a _ hs) (by rw [hmoves])
      _ = run k (xs.foldl (fun t a => f a t) (f a { s with moves := ms })) := by
        rw [← hmoves]

/-! ## Illegal words (R115, R287) -/

theorem stepWith_wr_ctrl (w : Word) {s : State} (hidle : s.phase = .idle) :
    stepWith (wr 0x000 w) s = .next (answer .written (accept w s)) :=
  stepWith_wr_idle (off := 0x000) w hidle (by decide) rfl

theorem engineStep_illegal {s : State} {e : DecodeError} (hp : s.phase = .dispatch) (he : decode s.cmdLast = .error e) :
    engineStep s = .next (finish 1 s) := by
  simp [engineStep, hp, stepDispatch, he, raiseError, errorCode]

/-- Settles O6: the causes of `decode_eq_error_iff` in the arithmetic of the word, then acceptance and `finish 1`. -/
theorem illegalWordsAreExactlyThese : Obligations.IllegalWordsAreExactlyThese := by
  refine ⟨fun w => ?causes, fun s w hidle ⟨e, he⟩ => ⟨.written, ?completes⟩⟩
  case causes =>
    rw [decode_eq_error_iff, opField_toNat, ne_eq, ne_eq, ne_eq, rsvdField_eq_zero_iff, roundField_eq_zero_iff,
      opField_eq_ark_iff]
  case completes =>
    have haccept := stepWith_wr_ctrl w (s := { s with moves := [] }) hidle
    have hdispatch := engineStep_illegal (s := answer .written (accept w { s with moves := [] })) rfl he
    refine ((run_succ_of_next 1 haccept).trans (run_succ_of_next 0 hdispatch)).trans ?_
    rw [run_zero, finish, answer, accept, hidle]

/-! ## The frame of a command's dispatch step (R112) -/

theorem exec_ek {i : Instr} {s t : State} (h : exec i s = .next t) : t.ek = s.ek := by
  obtain ⟨code, st, p, -, -, rfl⟩ | ⟨-, hk⟩ | ⟨dir, -, rfl⟩ := exec_next_cases h
  · rfl
  · obtain ⟨-, hs⟩ | ⟨-, hs⟩ := execKeyexp_cases s <;> cases hs.symm.trans hk <;> rfl
  · rfl

/-- The schedule's flags and the expander's counters are KEYEXP's. -/
theorem exec_schedule {i : Instr} {s t : State} (h : exec i s = .next t) (hi : i ≠ .keyexp) :
    t.keyValid = s.keyValid ∧ t.ekNk = s.ekNk ∧ t.ekNr = s.ekNr ∧ t.kxI = s.kxI ∧ t.kxNk = s.kxNk ∧
      t.kxNr = s.kxNr := by
  obtain ⟨code, st, p, -, -, rfl⟩ | ⟨hk, -⟩ | ⟨dir, -, rfl⟩ := exec_next_cases h
  · exact ⟨rfl, rfl, rfl, rfl, rfl, rfl⟩
  · exact absurd hk hi
  · exact ⟨rfl, rfl, rfl, rfl, rfl, rfl⟩

/-- The sequencer's registers are those of ENC and DEC. -/
theorem exec_sequencer {i : Instr} {s t : State} (h : exec i s = .next t) (henc : i ≠ .enc) (hdec : i ≠ .dec) :
    t.rc = s.rc ∧ t.dir = s.dir := by
  cases i with
  | enc => exact absurd rfl henc
  | dec => exact absurd rfl hdec
  | nop | sb | isb | sr | isr | mc | imc | gfmul => cases h; exact ⟨rfl, rfl⟩
  | keyexp => obtain ⟨-, hs⟩ | ⟨-, hs⟩ := execKeyexp_cases s <;> cases hs.symm.trans h <;> exact ⟨rfl, rfl⟩
  | ark r =>
    obtain ⟨-, hs⟩ | ⟨-, -, hs⟩ | ⟨-, -, -, hs⟩ | ⟨-, -, -, hs⟩ := execArk_cases r s <;> cases hs.symm.trans h <;>
      exact ⟨rfl, rfl⟩

theorem exec_st {i : Instr} {s t : State} (h : exec i s = .next t)
    (hi : i = .nop ∨ i = .keyexp ∨ i = .gfmul ∨ i = .enc ∨ i = .dec) : t.st = s.st := by
  obtain rfl | rfl | rfl | rfl | rfl := hi
  · cases h; rfl
  · obtain ⟨-, hs⟩ | ⟨-, hs⟩ := execKeyexp_cases s <;> cases hs.symm.trans h <;> rfl
  · cases h; rfl
  · obtain rfl | ⟨-, rfl⟩ := startCipher_next h <;> rfl
  · obtain rfl | ⟨-, rfl⟩ := startCipher_next h <;> rfl

/-- Settles O55, one lemma for each group of fields. -/
theorem commandsWriteOnlyTheirResults : Obligations.CommandsWriteOnlyTheirResults := by
  intro i s t h
  obtain ⟨hcmd, hovr, hie, hklen, hkey, hA, hB, hmoves, hreplies, hdraws⟩ := exec_leaves h
  exact ⟨hcmd, hklen, hkey, hA, hB, hovr, hie, exec_ek h, hmoves, hreplies, hdraws, (exec_gfP h).resolve_right,
    exec_schedule h, exec_sequencer h, exec_st h⟩

/-! ## The host's `wait` (R118, R283) -/

theorem startCipher_stepsLeft {dir : Direction} {s t : State} (hp : s.phase = .dispatch)
    (hd : decode s.cmdLast = .ok .enc ∨ decode s.cmdLast = .ok .dec) (h : startCipher dir s = .next t) :
    stepsLeft s = stepsLeft t + 1 := by
  have hsteps : stepsLeft s = if s.keyValid then 1 + s.ekNr.toNat + 1 else 1 := by
    obtain hd | hd := hd <;> simp [stepsLeft, hp, stepsFromDispatch, hd]
  obtain ⟨hk, hs⟩ | ⟨hk, hs⟩ := startCipher_cases dir s <;> cases hs.symm.trans h
  · rw [hsteps]
    simp [hk, stepsLeft]
  · rw [hsteps]
    simp [hk, stepsLeft, Nat.add_comm]

theorem exec_stepsLeft {i : Instr} {s t : State} (hp : s.phase = .dispatch) (hd : decode s.cmdLast = .ok i)
    (h : exec i s = .next t) : stepsLeft s = stepsLeft t + 1 := by
  cases i with
  | nop | sb | isb | sr | isr | mc | imc | gfmul => cases h; simp [stepsLeft, hp, stepsFromDispatch, hd]
  | keyexp =>
    obtain ⟨hl, hs⟩ | ⟨hl, hs⟩ := execKeyexp_cases s <;> cases hs.symm.trans h <;>
      simp [stepsLeft, hp, stepsFromDispatch, hd, hl]
  | enc => exact startCipher_stepsLeft hp (.inl hd) h
  | dec => exact startCipher_stepsLeft hp (.inr hd) h
  | ark r =>
    obtain ⟨-, hs⟩ | ⟨-, -, hs⟩ | ⟨-, -, -, hs⟩ | ⟨-, -, -, hs⟩ := execArk_cases r s <;> cases hs.symm.trans h <;>
      simp [stepsLeft, hp, stepsFromDispatch, hd]

theorem stepKeyexp_stepsLeft {s t : State} (hinv : Inv s) (hp : s.phase = .keyexp) (h : stepKeyexp s = .next t) :
    stepsLeft s = stepsLeft t + 1 := by
  obtain ⟨-, -, -, hle⟩ := hinv.expander hp
  obtain ⟨hd, hs⟩ | ⟨w, hi, -, -, hs⟩ | ⟨-, -, hs⟩ := stepKeyexp_cases s <;> cases hs.symm.trans h
  · obtain ⟨-, -, h60⟩ := (expanderDone_iff s).1 hd
    simp only [stepsLeft, hp, finish_phase]
    omega
  · simp only [stepsLeft, hp, kxI_succ_toNat hi]
    omega

theorem stepCipher_stepsLeft {s t : State} (hp : s.phase = .cipher) (h : stepCipher s = .next t) :
    stepsLeft s = stepsLeft t + 1 := by
  obtain ⟨heq, -, hs⟩ | ⟨hlt, -, hs⟩ | ⟨-, hs⟩ := stepCipher_cases s <;> cases hs.symm.trans h
  · simp [stepsLeft, hp, heq]
  · have hsucc : (s.rc + 1).toNat = s.rc.toNat + 1 := by bv_omega
    simp only [stepsLeft, hp, hsucc]
    omega

/-- Every step of a running command is one of its `stepsLeft` (R283). -/
theorem engineStep_stepsLeft {s t : State} (hinv : Inv s) (hp : s.phase ≠ .idle) (h : engineStep s = .next t) :
    stepsLeft s = stepsLeft t + 1 := by
  obtain ⟨hi, -⟩ | ⟨hd, i, hi, he⟩ | ⟨hd, e, hi, he⟩ | ⟨hk, he⟩ | ⟨hc, he⟩ := engineStep_cases s
  · exact absurd hi hp
  · exact exec_stepsLeft hd hi (he.symm.trans h)
  · cases he.symm.trans h
    simp [stepsLeft, hd, stepsFromDispatch, hi]
  · exact stepKeyexp_stepsLeft hinv hk (he.symm.trans h)
  · exact stepCipher_stepsLeft hc (he.symm.trans h)

theorem statusWord_busyBit (s : State) : (statusWord s).getLsbD 0 = busy s := by
  rw [statusWord, BitVec.getLsbD_append]
  simp [bit]

theorem step_poll_idle {s : State} {ms : List Move} (hm : s.moves = .wait :: ms) (h : s.phase = .idle) :
    step s = .next { s with moves := ms, replies := .data (statusWord s) :: s.replies } := by
  rw [step_of_moves hm, stepWith_wait]
  simp [waitTurn, busy, h, busRead, readReg, answer, statusWord]

theorem step_poll_busy {s : State} {ms : List Move} (hm : s.moves = .wait :: ms) (h : s.phase ≠ .idle) :
    step s = .next { s with moves := .engine :: .wait :: ms, replies := .data (statusWord s) :: s.replies } := by
  rw [step_of_moves hm, stepWith_wait]
  simp [waitTurn, busy, h, busRead, readReg, drawnWhileBusy, answer, statusWord]

/-- Settles O56, by induction on the steps left: a poll with BUSY = 1 is followed by an engine step and a poll. -/
theorem waitEndsWhenTheCommandCompletes : Obligations.WaitEndsWhenTheCommandCompletes := by
  intro s hinv hm
  induction hn : stepsLeft s using Nat.strong_induction_on generalizing s with
  | _ n ih =>
    subst hn
    by_cases hidle : s.phase = .idle
    · refine ⟨1, _, s.replies, run_succ_of_next 0 (step_poll_idle hm hidle), rfl, hidle, rfl, ?_⟩
      rw [statusWord_busyBit]
      exact (not_busy_iff _).2 hidle
    · have hpoll := step_poll_busy hm hidle
      have hinv' := hostKeeps_inv.record s [.wait] (.data (statusWord s) :: s.replies) s.draws hinv
      obtain ⟨t, ht⟩ := engineStep_isNext_of_inv hinv'
      have hless := engineStep_stepsLeft hinv' hidle ht
      obtain ⟨k, t', rest, hrun, hend⟩ :=
        ih (stepsLeft t) (hless ▸ Nat.lt_succ_self _) t (hinv'.engineStep ht) (engineStep_leaves ht).moves rfl
      refine ⟨k + 2, t', rest, ?_, hend⟩
      rw [run_succ_of_next (k + 1) hpoll, ← hrun]
      exact run_succ_of_next k ht

/-! ## `ldst` and `rdst` (R118) -/

theorem toNat_append_eq {n m : Nat} (x : BitVec n) (y : BitVec m) :
    (x ++ y).toNat = x.toNat * 2 ^ m + y.toNat := by
  rw [BitVec.toNat_append, ← Nat.shiftLeft_add_eq_or_of_lt y.isLt, Nat.shiftLeft_eq]

theorem byteOf_toNat (w : Word) (k : Nat) : (byteOf w k).toNat = w.toNat / 2 ^ (24 - 8 * k) % 2 ^ 8 := by
  rw [byteOf, BitVec.extractLsb'_toNat, Nat.shiftRight_eq_div_pow]

theorem byteOf_pack (b0 b1 b2 b3 : Byte) :
    byteOf (pack b0 b1 b2 b3) 0 = b0 ∧ byteOf (pack b0 b1 b2 b3) 1 = b1 ∧ byteOf (pack b0 b1 b2 b3) 2 = b2 ∧
      byteOf (pack b0 b1 b2 b3) 3 = b3 := by
  have hpack : (pack b0 b1 b2 b3).toNat =
      ((b0.toNat * 2 ^ 8 + b1.toNat) * 2 ^ 8 + b2.toNat) * 2 ^ 8 + b3.toNat := by
    rw [pack, toNat_append_eq, toNat_append_eq, toNat_append_eq]
  simp only [← BitVec.toNat_inj, byteOf_toNat, hpack]
  omega

/-- The word of a column holds the column's bytes (R9, R38). -/
theorem byteOf_columnWord (b : Block) (c : Fin 4) {k : Nat} (hk : k < 4) :
    byteOf (columnWord b c) k = b[4 * c.val + k] := by
  obtain ⟨h0, h1, h2, h3⟩ := byteOf_pack b[4 * c.val] b[4 * c.val + 1] b[4 * c.val + 2] b[4 * c.val + 3]
  interval_cases k
  · exact h0
  · exact h1
  · exact h2
  · exact h3

/-- The block with the columns of a list taken from another. -/
def copyColumns (b : Block) (cs : List (Fin 4)) (st : Block) : Block :=
  cs.foldl (fun st c => setColumn st c (columnWord b c)) st

theorem copyColumns_getElem? (b : Block) (cs : List (Fin 4)) (st : Block) (c : Fin 4) {k : Nat} (hk : k < 4) :
    (copyColumns b cs st)[4 * c.val + k]? = if c ∈ cs then b[4 * c.val + k]? else st[4 * c.val + k]? := by
  induction cs generalizing st with
  | nil => simp [copyColumns]
  | cons d cs ih =>
    rw [copyColumns, List.foldl_cons, ← copyColumns, ih]
    by_cases hc : c = d
    · subst hc
      rw [setColumn_byte _ _ _ hk, byteOf_columnWord b c hk]
      simp
    · have hdiv : (4 * c.val + k) / 4 ≠ d.val := fun h => hc (Fin.ext (by omega))
      rw [setColumn_other _ _ _ hdiv]
      simp [hc]

theorem copyColumns_all (b st : Block) : copyColumns b (List.finRange 4) st = b := by
  refine Vector.ext fun i hi => Option.some.inj ?_
  have h := copyColumns_getElem? b (List.finRange 4) st ⟨i / 4, by omega⟩ (k := i % 4) (by omega)
  rw [if_pos (List.mem_finRange _), Nat.div_add_mod] at h
  rwa [← Vector.getElem?_eq_getElem, ← Vector.getElem?_eq_getElem]

/-- `wr STATEc` of a column of b. -/
def storeColumn (b : Block) (c : Fin 4) (s : State) : State :=
  { s with st := setColumn s.st c (columnWord b c), replies := .written :: s.replies }

/-- `rd STATEc`. -/
def loadColumn (c : Fin 4) (s : State) : State := { s with replies := .data (columnWord s.st c) :: s.replies }

theorem stepWith_wr_state (b : Block) (c : Fin 4) {s : State} (hidle : s.phase = .idle) :
    stepWith (wr (0x030 + 4 * c.val) (columnWord b c)) s = .next (storeColumn b c s) := by
  rw [stepWith_wr_idle _ hidle (by omega) (by omega), regAt_state]
  rfl

theorem stepWith_rd_state (c : Fin 4) {s : State} (hidle : s.phase = .idle) :
    stepWith (rd (0x030 + 4 * c.val)) s = .next (loadColumn c s) := by
  have hr := reads_of_defined (s := s) (off := 0x030 + 4 * c.val) (by omega) (by omega)
    (.inl ((not_busy_iff s).2 hidle))
  rwa [regAt_state] at hr

theorem storeColumns_eq (b : Block) (cs : List (Fin 4)) (s : State) :
    cs.foldl (fun t c => storeColumn b c t) s =
      { s with st := copyColumns b cs s.st, replies := List.replicate cs.length .written ++ s.replies } := by
  induction cs generalizing s with
  | nil => rfl
  | cons c cs ih =>
    rw [List.foldl_cons, ih, List.length_cons, List.replicate_succ', List.append_assoc]
    rfl

theorem loadColumns_eq (cs : List (Fin 4)) (s : State) :
    cs.foldl (fun t c => loadColumn c t) s =
      { s with replies := (cs.map fun c => .data (columnWord s.st c)).reverse ++ s.replies } := by
  induction cs generalizing s with
  | nil => rfl
  | cons c cs ih =>
    rw [List.foldl_cons, ih, List.map_cons, List.reverse_cons, List.append_assoc]
    rfl

theorem rdst_eq : rdst = (List.finRange 4).map fun c => rd (0x030 + 4 * c.val) := rfl

theorem run_ldst (b : Block) {s : State} {ms : List Move} (k : Nat) (hidle : s.phase = .idle)
    (hm : s.moves = ldst b ++ ms) :
    run (4 + k) s =
      run k { s with st := b, moves := ms, replies := List.replicate 4 .written ++ s.replies } := by
  have h := run_each ms k (List.finRange 4) (fun c _ _ h => stepWith_wr_state b c h) (fun _ _ h => h)
    (fun _ _ _ => rfl) hidle hm
  rwa [storeColumns_eq, copyColumns_all, List.length_finRange] at h

theorem run_rdst {s : State} {ms : List Move} (k : Nat) (hidle : s.phase = .idle) (hm : s.moves = rdst ++ ms) :
    run (4 + k) s = run k { s with
      moves := ms
      replies := ((List.finRange 4).map fun c => .data (columnWord s.st c)).reverse ++ s.replies } := by
  rw [rdst_eq] at hm
  have h := run_each ms k (List.finRange 4) (fun c _ _ h => stepWith_rd_state c h) (fun _ _ h => h)
    (fun _ _ _ => rfl) hidle hm
  rwa [loadColumns_eq, List.length_finRange] at h

/-- Settles O57: the four columns stored are all of the block, and each is then read back. -/
theorem ldstThenRdstGivesTheBlock : Obligations.LdstThenRdstGivesTheBlock := by
  intro s b hidle hm
  exact (run_ldst b 4 hidle hm).trans (run_rdst 0 hidle (List.append_nil _).symm)

/-! ## `ldkey` (R118) -/

/-- The KEY registers with the words of a list of indices written. -/
def writeWords (word : Nat → Word) (js : List Nat) (key : Vector Word 8) : Vector Word 8 :=
  js.foldl (fun key j => key.setIfInBounds j (word j)) key

theorem writeWords_getElem? (word : Nat → Word) (js : List Nat) (key : Vector Word 8) {j : Nat} (hj : j < 8) :
    (writeWords word js key)[j]? = if j ∈ js then some (word j) else key[j]? := by
  induction js generalizing key with
  | nil => simp [writeWords]
  | cons i js ih =>
    rw [writeWords, List.foldl_cons, ← writeWords, ih]
    by_cases hi : i = j
    · subst hi
      simp [hj]
    · simp [hi, Ne.symm hi]

/-- `wr KEYj` of a word. -/
def storeKey (word : Nat → Word) (j : Nat) (s : State) : State :=
  { s with key := s.key.setIfInBounds j (word j), replies := .written :: s.replies }

theorem stepWith_wr_key (word : Nat → Word) {j : Nat} (hj : j < 8) {s : State} (hidle : s.phase = .idle) :
    stepWith (wr (0x010 + 4 * j) (word j)) s = .next (storeKey word j s) := by
  have hset : s.key.set j (word j) = s.key.setIfInBounds j (word j) := by
    simp [← Vector.toArray_inj, Array.setIfInBounds_def, hj]
  rw [stepWith_wr_idle _ hidle (by omega) (by omega), regAt_key ⟨j, hj⟩, storeKey, ← hset]
  rfl

theorem storeKeys_eq (word : Nat → Word) (js : List Nat) (s : State) :
    ∃ rs, js.foldl (fun t j => storeKey word j t) s = { s with key := writeWords word js s.key, replies := rs } := by
  induction js generalizing s with
  | nil => exact ⟨s.replies, rfl⟩
  | cons j js ih => exact ih (storeKey word j s)

theorem stepWith_wr_keylen (n : Nat) {s : State} (hidle : s.phase = .idle) :
    stepWith (wr 0x00C (BitVec.ofNat 32 n)) s =
      .next { s with klen := BitVec.ofNat 8 n, replies := .written :: s.replies } := by
  have hlow : (BitVec.ofNat 32 n).extractLsb' 0 8 = BitVec.ofNat 8 n := by simp [← BitVec.toNat_inj]
  rw [stepWith_wr_idle _ hidle (by decide) rfl, ← hlow]
  rfl

theorem getElem?_eq_getD (key : List Byte) {i : Nat} (hi : i < key.length) : key[i]? = some (key.getD i 0) := by
  simp [hi]

theorem run_keyWrites (word : Nat → Word) {js : List Nat} {s : State} (hjs : ∀ j ∈ js, j < 8) (hidle : s.phase = .idle)
    (hm : s.moves = js.map fun j => wr (0x010 + 4 * j) (word j)) :
    ∃ rs, run js.length s = .next { s with key := writeWords word js s.key, moves := [], replies := rs } := by
  have h := run_each [] 0 js (fun j hj _ h => stepWith_wr_key word (hjs j hj) h) (fun _ _ h => h) (fun _ _ _ => rfl)
    hidle (hm.trans (List.append_nil _).symm)
  obtain ⟨rs, hrs⟩ := storeKeys_eq word js { s with moves := [] }
  exact ⟨rs, by rw [← Nat.add_zero js.length, h, hrs, run_zero]⟩

theorem run_ldkey {key : List Byte} {s : State} (hlen : key.length / 4 ≤ 8) (hidle : s.phase = .idle)
    (hm : s.moves = ldkey key) :
    ∃ rs, run (1 + key.length / 4) s = .next { s with
      klen := BitVec.ofNat 8 key.length
      key := writeWords (wordOfBytes key) (List.range (key.length / 4)) s.key
      moves := []
      replies := rs } := by
  have hklen := (step_of_moves hm).trans (stepWith_wr_keylen key.length hidle)
  rw [Nat.add_comm, run_succ_of_next _ hklen]
  have hjs : ∀ j ∈ List.range (key.length / 4), j < 8 := fun j hj => Nat.lt_of_lt_of_le (List.mem_range.1 hj) hlen
  have h := run_keyWrites (wordOfBytes key) hjs (s := { s with
    klen := BitVec.ofNat 8 key.length
    moves := (List.range (key.length / 4)).map fun j => wr (0x010 + 4 * j) (wordOfBytes key j)
    replies := .written :: s.replies }) hidle rfl
  rwa [List.length_range] at h

/-- Settles O58: `run_ldkey` gives the state, and `writeWords_getElem?` says which KEY words are written. -/
theorem ldkeyLoadsTheKey : Obligations.LdkeyLoadsTheKey := by
  intro s key hidle hm hlen
  obtain ⟨rs, hrun⟩ := run_ldkey (by omega) hidle hm
  refine ⟨_, hrun, rfl, fun j hj => ?written, fun j hj => ?kept⟩
  case written =>
    refine ⟨_, _, _, _, getElem?_eq_getD key (by omega), getElem?_eq_getD key (by omega),
      getElem?_eq_getD key (by omega), getElem?_eq_getD key (by omega), ?_⟩
    exact (writeWords_getElem? _ _ s.key (by omega)).trans (if_pos (List.mem_range.2 hj))
  case kept =>
    by_cases h8 : j < 8
    · exact (writeWords_getElem? _ _ s.key h8).trans (if_neg fun h => Nat.not_lt.2 hj (List.mem_range.1 h))
    · rw [Vector.getElem?_eq_none (by omega), Vector.getElem?_eq_none (by omega)]

end Sys2Proof.Machine

/-! # The field and the tables: `gfmul`, the log ROMs, the S-boxes, RCON, the mix matrices

`gfmul` is R142's sum written out (`gfmul_eq_partialProduct`); the sum is linear in both factors, and `xtime` of the
left one comes out of it. Every byte is made of 1 by `xtime` and XOR (`field_induction`), so commutativity and
associativity are inductions over the left factor. ALOG is a table of powers of 0x03 and LOG gives the exponents, so
R144's algorithm and R147's inverse are the law of exponents (`generatorPower_add`), and with inverses there are no zero
divisors. -/

namespace Sys2Proof.Machine

/-! ## The product as a sum over the bits of the right factor (R142) -/

/-- The sum of R142 over the bits below n: the XOR of x^k times a over the set bits k of b. -/
def partialProduct (a b : Byte) (n : Nat) : Byte :=
  (List.range n).foldl (fun acc k => if b.getLsbD k then acc ^^^ xtime^[k] a else acc) 0

theorem partialProduct_succ (a b : Byte) (n : Nat) :
    partialProduct a b (n + 1) = partialProduct a b n ^^^ if b.getLsbD n then xtime^[n] a else 0 := by
  rw [partialProduct, List.range_succ, List.foldl_concat, ← partialProduct]
  split
  · rfl
  · exact BitVec.xor_zero.symm

/-- The loop of R142 holds the sum so far and the shifted left factor. -/
theorem gfmulTurns_eq (a b : Byte) (n : Nat) :
    (List.range n).foldl (gfmulTurn b) (0, a) = (partialProduct a b n, xtime^[n] a) := by
  induction n with
  | zero => rfl
  | succ n ih =>
    rw [List.range_succ, List.foldl_concat, ih, gfmulTurn, Function.iterate_succ_apply', partialProduct_succ]
    split
    · rfl
    · exact congrArg (·, _) BitVec.xor_zero.symm

theorem gfmul_eq_partialProduct (a b : Byte) : gfmul a b = partialProduct a b 8 :=
  congrArg Prod.fst (gfmulTurns_eq a b 8)

/-! ## The product is linear (R141, R142) -/

theorem xor_xor_xor_comm (a b c d : Byte) : a ^^^ b ^^^ (c ^^^ d) = a ^^^ c ^^^ (b ^^^ d) := by ac_rfl

/-- A term taken for a sum of bits is the sum of the terms taken for each. -/
theorem ite_bool_xor (p q : Bool) (x : Byte) :
    (if p ^^ q then x else 0) = (if p then x else 0) ^^^ (if q then x else 0) := by
  cases p <;> cases q <;> simp

theorem xtime_zero : xtime 0 = 0 := rfl

theorem xtime_xor (a b : Byte) : xtime (a ^^^ b) = xtime a ^^^ xtime b := by
  rw [xtime, BitVec.shiftLeft_xor_distrib, BitVec.getLsbD_xor, ite_bool_xor, xor_xor_xor_comm]
  rfl

theorem xtime_iterate_xor (n : Nat) (a b : Byte) : xtime^[n] (a ^^^ b) = xtime^[n] a ^^^ xtime^[n] b := by
  induction n generalizing a b with
  | zero => rfl
  | succ n ih => rw [Function.iterate_succ_apply, xtime_xor, ih]; rfl

theorem partialProduct_xor_left (a b c : Byte) (n : Nat) :
    partialProduct (a ^^^ b) c n = partialProduct a c n ^^^ partialProduct b c n := by
  induction n with
  | zero => exact BitVec.xor_self.symm
  | succ n ih =>
    have term : (if c.getLsbD n then xtime^[n] (a ^^^ b) else 0) =
        (if c.getLsbD n then xtime^[n] a else 0) ^^^ (if c.getLsbD n then xtime^[n] b else 0) := by
      split
      · exact xtime_iterate_xor n a b
      · exact BitVec.xor_self.symm
    rw [partialProduct_succ, ih, term, xor_xor_xor_comm, ← partialProduct_succ, ← partialProduct_succ]

theorem partialProduct_xor_right (a b c : Byte) (n : Nat) :
    partialProduct a (b ^^^ c) n = partialProduct a b n ^^^ partialProduct a c n := by
  induction n with
  | zero => exact BitVec.xor_self.symm
  | succ n ih =>
    rw [partialProduct_succ, ih, BitVec.getLsbD_xor, ite_bool_xor, xor_xor_xor_comm, ← partialProduct_succ,
      ← partialProduct_succ]

theorem partialProduct_xtime_left (a b : Byte) (n : Nat) :
    partialProduct (xtime a) b n = xtime (partialProduct a b n) := by
  induction n with
  | zero => exact xtime_zero.symm
  | succ n ih =>
    rw [partialProduct_succ, partialProduct_succ, ih, xtime_xor, ← Function.iterate_succ_apply,
      Function.iterate_succ_apply']
    split
    · rfl
    · rw [xtime_zero]

theorem gfmul_xor_left (a b c : Byte) : gfmul (a ^^^ b) c = gfmul a c ^^^ gfmul b c := by
  simp only [gfmul_eq_partialProduct, partialProduct_xor_left]

theorem gfmul_xor_right (a b c : Byte) : gfmul a (b ^^^ c) = gfmul a b ^^^ gfmul a c := by
  simp only [gfmul_eq_partialProduct, partialProduct_xor_right]

theorem gfmul_xtime_left (a b : Byte) : gfmul (xtime a) b = xtime (gfmul a b) := by
  simp only [gfmul_eq_partialProduct, partialProduct_xtime_left]

theorem gfmul_zero_left (x : Byte) : gfmul 0 x = 0 := by
  have h := gfmul_xor_left 0 0 x
  rwa [BitVec.xor_self, BitVec.xor_self] at h

theorem gfmul_one_left (x : Byte) : gfmul 1 x = x := by
  decide +revert

/-! ## The laws of the product (R146) -/

/-- A byte is a polynomial in x: what holds of 1 and is kept by `xtime` and by XOR holds of every byte. -/
theorem field_induction {P : Byte → Prop} (one : P 1) (mulX : ∀ a, P a → P (xtime a))
    (add : ∀ a b, P a → P b → P (a ^^^ b)) (a : Byte) : P a := by
  have zero : P 0 := add 1 1 one one
  have power (k : Nat) : P (xtime^[k] 1) := Function.Iterate.rec P one mulX k
  have sum (n : Nat) : P (partialProduct 1 a n) := by
    induction n with
    | zero => exact zero
    | succ n ih =>
      rw [partialProduct_succ]
      split
      · exact add _ _ ih (power n)
      · exact add _ _ ih zero
  rw [← gfmul_one_left a, gfmul_eq_partialProduct]
  exact sum 8

theorem gfmul_xtime_right (a b : Byte) : gfmul a (xtime b) = xtime (gfmul a b) := by
  induction a using field_induction with
  | one => simp only [gfmul_one_left]
  | mulX a ih => simp only [gfmul_xtime_left, ih]
  | add a c ha hc => simp only [gfmul_xor_left, ha, hc, xtime_xor]

theorem gfmul_one_right (a : Byte) : gfmul a 1 = a := by
  induction a using field_induction with
  | one => exact gfmul_one_left 1
  | mulX a ih => rw [gfmul_xtime_left, ih]
  | add a c ha hc => rw [gfmul_xor_left, ha, hc]

theorem gfmul_comm (a b : Byte) : gfmul a b = gfmul b a := by
  induction a using field_induction with
  | one => rw [gfmul_one_left, gfmul_one_right]
  | mulX a ih => rw [gfmul_xtime_left, gfmul_xtime_right, ih]
  | add a c ha hc => rw [gfmul_xor_left, gfmul_xor_right, ha, hc]

theorem gfmul_assoc (a b c : Byte) : gfmul a (gfmul b c) = gfmul (gfmul a b) c := by
  induction a using field_induction with
  | one => simp only [gfmul_one_left]
  | mulX a ih => simp only [gfmul_xtime_left, ih]
  | add a d ha hd => simp only [gfmul_xor_left, ha, hd]

theorem gfmul_zero_right (x : Byte) : gfmul x 0 = 0 := by
  rw [gfmul_comm, gfmul_zero_left]

/-! ## The log ROMs (R147, R150) -/

theorem generatorPower_add (m n : Nat) :
    generatorPower (m + n) = gfmul (generatorPower m) (generatorPower n) := by
  induction n with
  | zero => exact (gfmul_one_right _).symm
  | succ n ih => rw [Nat.add_succ, generatorPower, generatorPower, ih, gfmul_assoc]

theorem alog_succ (x : Byte) : x ≠ 255 → alog (x + 1) = gfmul (alog x) 0x03 := by
  decide +revert

theorem alog_eq_generatorPower {k : Nat} (hk : k ≤ 255) : alog (BitVec.ofNat 8 k) = generatorPower k := by
  induction k with
  | zero => rfl
  | succ k ih =>
    have hne : BitVec.ofNat 8 k ≠ 255 := by bv_omega
    have hsucc : BitVec.ofNat 8 (k + 1) = BitVec.ofNat 8 k + 1 := BitVec.ofNat_add k 1
    rw [hsucc, alog_succ _ hne, ih (Nat.le_of_succ_le hk), generatorPower]

/-- The powers of the generator repeat after 255 (R150). -/
theorem generatorPower_255 : generatorPower 255 = 1 := (alog_eq_generatorPower le_rfl).symm

theorem logOf_alog (x : Byte) : x ≠ 255 → logOf (alog x) = x := by
  decide +revert

/-- LOG[a] is the exponent below 255 that gives a. -/
theorem logOf_spec (a : Byte) : a ≠ 0 → (logOf a).toNat < 255 ∧ alog (logOf a) = a := by
  decide +revert

theorem generatorPower_logOf {a : Byte} (ha : a ≠ 0) : generatorPower (logOf a).toNat = a := by
  obtain ⟨hlog, halog⟩ := logOf_spec a ha
  rw [← alog_eq_generatorPower hlog.le, BitVec.ofNat_toNat, BitVec.setWidth_eq, halog]

/-- R144's reduction of the exponent: 255, after which the powers repeat, is subtracted at most once. -/
theorem alog_reduced {n : Nat} (hn : n ≤ 510) :
    alog (BitVec.ofNat 8 (if n > 255 then n - 255 else n)) = generatorPower n := by
  split
  case isTrue hgt =>
    calc alog (BitVec.ofNat 8 (n - 255))
        = gfmul (generatorPower (n - 255)) (generatorPower 255) := by
          rw [alog_eq_generatorPower (by omega), generatorPower_255, gfmul_one_right]
      _ = generatorPower n := by rw [← generatorPower_add, Nat.sub_add_cancel hgt.le]
  case isFalse hle => exact alog_eq_generatorPower (Nat.le_of_not_gt hle)

theorem gfmul_eq_generatorPower {a b : Byte} (ha : a ≠ 0) (hb : b ≠ 0) :
    gfmul a b = generatorPower ((logOf a).toNat + (logOf b).toNat) := by
  rw [generatorPower_add, generatorPower_logOf ha, generatorPower_logOf hb]

/-! ## The inverse (R147) -/

/-- The inverse of 0x03^k is 0x03^(255 - k); R147's reduction modulo 255 matters for k = 0 only. -/
theorem ginv_eq_generatorPower {a : Byte} (ha : a ≠ 0) : ginv a = generatorPower (255 - (logOf a).toNat) := by
  rw [ginv, if_neg ha, alog_eq_generatorPower (Nat.mod_lt _ (by decide)).le]
  obtain hzero | hpos := (logOf a).toNat.eq_zero_or_pos
  · rw [hzero]
    exact generatorPower_255.symm
  · rw [Nat.mod_eq_of_lt (by omega)]

theorem gfmul_ginv {a : Byte} (ha : a ≠ 0) : gfmul a (ginv a) = 1 := by
  obtain ⟨hlog, -⟩ := logOf_spec a ha
  calc gfmul a (ginv a)
      = gfmul (generatorPower (logOf a).toNat) (generatorPower (255 - (logOf a).toNat)) := by
        rw [generatorPower_logOf ha, ginv_eq_generatorPower ha]
    _ = generatorPower 255 := by rw [← generatorPower_add, Nat.add_sub_cancel' hlog.le]
    _ = 1 := generatorPower_255

/-- Multiplying by a nonzero byte is undone by its inverse. -/
theorem gfmul_ginv_cancel {a : Byte} (ha : a ≠ 0) (b : Byte) : gfmul (ginv a) (gfmul a b) = b := by
  rw [gfmul_assoc, gfmul_comm (ginv a), gfmul_ginv ha, gfmul_one_left]

theorem gfmul_eq_one_iff {a : Byte} (ha : a ≠ 0) (b : Byte) : gfmul a b = 1 ↔ b = ginv a := by
  refine ⟨fun h => ?_, fun h => h ▸ gfmul_ginv ha⟩
  rw [← gfmul_ginv_cancel ha b, h, gfmul_one_right]

theorem eq_zero_of_gfmul_eq_zero {a b : Byte} (h : gfmul a b = 0) : a = 0 ∨ b = 0 := by
  refine or_iff_not_imp_left.2 fun ha => ?_
  rw [← gfmul_ginv_cancel ha b, h, gfmul_zero_right]

/-! ## The S-boxes, RCON and the mix matrices (R155, R157, R160, R163) -/

theorem sbox_eq_affine_ginv (a : Byte) : sbox a = affine (ginv a) := by
  decide +revert

theorem getLsbD_rotateLeft_eq (b : Byte) {r k : Nat} (hr : r < 8) (hk : k < 8) :
    (b.rotateLeft r).getLsbD k = b.getLsbD ((k + (8 - r)) % 8) := by
  rw [BitVec.getLsbD_rotateLeft, Nat.mod_eq_of_lt hr, Bool.cond_decide]
  split
  case isTrue hlt => rw [Nat.mod_eq_of_lt (by omega), Nat.add_comm]
  case isFalse hge =>
    have hmod : (k + (8 - r)) % 8 = k - r := by omega
    rw [hmod, decide_eq_true hk, Bool.true_and]

theorem affine_getLsbD (b : Byte) {k : Nat} (hk : k < 8) :
    (affine b).getLsbD k =
      (b.getLsbD k ^^ b.getLsbD ((k + 4) % 8) ^^ b.getLsbD ((k + 5) % 8) ^^ b.getLsbD ((k + 6) % 8)
        ^^ b.getLsbD ((k + 7) % 8) ^^ (0x63 : Byte).getLsbD k) := by
  simp only [affine, BitVec.getLsbD_xor, getLsbD_rotateLeft_eq b _ hk, Nat.reduceLT, Nat.reduceSub, Bool.xor_assoc,
    Bool.xor_comm, Bool.xor_left_comm]

/-- An entry of RCON is a power of x in the top byte (R160). -/
theorem rcon_eq (j : Fin 14) : rcon j.val = some (xtime^[j.val] 1 ++ (0 : BitVec 24)) := by
  decide +revert

/-! ## The obligations -/

/-- Settles O22: the laws above; there are no zero divisors because every nonzero byte has an inverse. -/
theorem gfmulLaws : Obligations.GfmulLaws :=
  ⟨gfmul_zero_left, gfmul_one_left, gfmul_comm, gfmul_assoc, gfmul_xor_right, fun _ _ => eq_zero_of_gfmul_eq_zero⟩

/-- Settles O23: R144's special cases are laws of the product, and its general case is the law of exponents. -/
theorem gfmulEqualsTheLogAlgorithm : Obligations.GfmulEqualsTheLogAlgorithm := by
  intro a b
  unfold gfmulLog
  split
  case isTrue hzero =>
    obtain rfl | rfl := hzero
    · exact (gfmul_zero_left b).symm
    · exact (gfmul_zero_right a).symm
  case isFalse hne =>
    obtain ⟨ha, hb⟩ := not_or.1 hne
    split
    case isTrue hone => rw [hone, gfmul_one_left]
    case isFalse =>
      split
      case isTrue hone => rw [hone, gfmul_one_right]
      case isFalse => rw [gfmul_eq_generatorPower ha hb, alog_reduced (by omega)]

/-- Settles O25, a lemma for each clause; the inverse is the one solution because it cancels. -/
theorem sboxIsAffineOfInverse : Obligations.SboxIsAffineOfInverse :=
  ⟨fun _ ha => gfmul_eq_one_iff ha, rfl, sbox_eq_affine_ginv, fun b _ hk => affine_getLsbD b hk⟩

/-- Settles O21: the product in GF_P is the sum of R142, and the decoder has one word for GFMUL. -/
theorem gfmulCommand : Obligations.GfmulCommand := by
  refine ⟨fun w => ⟨fun h => (encodeOfDecodeIsTheWord w _ h).2.symm, ?word⟩,
    fun s => ⟨_, rfl, gfmul_eq_partialProduct s.gfA s.gfB⟩,
    fun x => ⟨gfmul_zero_left x, gfmul_zero_right x, gfmul_one_left x, gfmul_one_right x⟩, rfl, rfl, rfl⟩
  case word =>
    rintro rfl
    rfl

/-- Settles O24: ALOG starts at 1 and each entry is 0x03 times the one before; LOG is read entry by entry. -/
theorem logTablesAreGeneratorPowers : Obligations.LogTablesAreGeneratorPowers :=
  ⟨fun _ => alog_eq_generatorPower, fun k hk => logOf_alog (BitVec.ofNat 8 k) (by bv_omega)⟩

/-- Settles O26, entry by entry. -/
theorem sboxesAreInverse : Obligations.SboxesAreInverse := by
  unfold Obligations.SboxesAreInverse
  decide

/-- Settles O27: the next power of x is `xtime` of the top byte. -/
theorem roundConstantsArePowers : Obligations.RoundConstantsArePowers := by
  refine ⟨rfl, fun j hj => ⟨_, rcon_eq ⟨j, Nat.lt_of_succ_lt hj⟩, ?next⟩, fun j => List.getElem?_eq_none_iff⟩
  case next =>
    rw [rcon_eq ⟨j + 1, hj⟩, Function.iterate_succ_apply', BitVec.extractLsb'_append_eq_left]

/-- Settles O28: sixteen entries of each product. -/
theorem mixMatricesAreInverse : Obligations.MixMatricesAreInverse := by
  unfold Obligations.MixMatricesAreInverse
  decide

end Sys2Proof.Machine

/-! # The key schedule: KEYEXP's dispatch step, the expander, the expansion's words, who writes the schedule

`scheduleWord` and `expanderWord` get one equation per branch of their rules (R183, R184, R195). The expander's run is an
induction on the words left, over `Expands`: EK agrees with the expansion below KX_I. -/

namespace Sys2Proof.Machine

/-! ## The words of the expansion (R183, R184) -/

section
variable {key : Vector Word 8} {nk i : Nat} {read : Nat → Option Word} {prev back w : Word}

theorem scheduleWord_of_lt (h : i < nk) : scheduleWord key nk i read = key[i]? := if_pos h

/-- A word past the key is the recurrence's, of the two words it reads. -/
theorem scheduleWord_eq_some_iff (hnk : nk ≠ 0) (h : nk ≤ i) :
    scheduleWord key nk i read = some w ↔
      ∃ prev back, read (i - 1) = some prev ∧ read (i - nk) = some back ∧ nextWord i nk prev back = some w := by
  rw [scheduleWord, if_neg (Nat.not_lt.2 h), if_neg hnk]
  cases read (i - 1) <;> cases read (i - nk) <;> simp

/-- The three branches of R184. -/
theorem nextWord_branches (h : nextWord i nk prev back = some w) :
    (i % nk = 0 → ∃ rc, rcon (i / nk - 1) = some rc ∧ w = subWord (rotWord prev) ^^^ rc ^^^ back) ∧
    (i % nk ≠ 0 → nk = 8 → i % 4 = 0 → w = subWord prev ^^^ back) ∧
    (i % nk ≠ 0 → ¬ (nk = 8 ∧ i % 4 = 0) → w = prev ^^^ back) := by
  refine ⟨fun hrot => ?_, fun hrot h8 h4 => ?_, fun hrot hsub => ?_⟩
  · rw [nextWord, if_pos hrot, Option.map_eq_some_iff] at h
    obtain ⟨rc, hrc, rfl⟩ := h
    exact ⟨rc, hrc, rfl⟩
  · rw [nextWord, if_neg hrot, if_pos ⟨h8, h4⟩] at h
    exact (Option.some.inj h).symm
  · rw [nextWord, if_neg hrot, if_neg hsub] at h
    exact (Option.some.inj h).symm

end

/-- The key store as bytes is big-endian (R11). -/
theorem ekByte_of_word {ek : Vector Word 60} {i k : Nat} {w : Word} (hw : ek[i]? = some w) (hk : k < 4) :
    ekByte ek (4 * i + k) = byteOf w k := by
  have hdiv : (4 * i + k) / 4 = i := by omega
  have hmod : (4 * i + k) % 4 = k := by omega
  rw [ekByte, hdiv, hmod, hw, Option.getD_some]

/-- Settles O37: `expandedStore_spec` gives each word, and the branches of `scheduleWord` what it is. -/
theorem expandedKeyFollowsTheRecurrence : Obligations.ExpandedKeyFollowsTheRecurrence := by
  refine ⟨fun _ => rfl, fun _ => rfl, by decide, fun key nk hnk => ?_⟩
  obtain ⟨ws, hws⟩ := expandedStore_isSome key hnk
  obtain ⟨hlen, hsched, htail⟩ := expandedStore_spec hnk hws
  have hcount : schedWords (nrOf nk) = 4 * (nk + 7) := rfl
  rw [hcount] at hsched htail
  refine ⟨ws, hws, hlen, fun i hi => ?key, fun i hge hlt => ?recurrence, htail, fun ek hek i k hi hk => ?bytes⟩
  case key => rw [hsched i (by omega), scheduleWord_of_lt hi]
  case recurrence =>
    have hw : ws[i]? = some ws[i] := List.getElem?_eq_getElem _
    obtain ⟨prev, back, hprev, hback, hnext⟩ :=
      (scheduleWord_eq_some_iff (by omega) hge).1 ((hsched i hlt).symm.trans hw)
    exact ⟨prev, back, ws[i], hprev, hback, hw, nextWord_branches hnext⟩
  case bytes =>
    have hw : ws[i]? = some ws[i] := List.getElem?_eq_getElem _
    refine ⟨ws[i], hw, ekByte_of_word ?_ hk⟩
    rw [← Vector.getElem?_toList, hek, hw]

/-! ## KEYEXP's dispatch step (R190, R302) -/

/-- Settles O34: the two cases of `execKeyexp_cases`, by `legalKlen_iff`. -/
theorem keyexpDispatch : Obligations.KeyexpDispatch := by
  intro s
  rw [← legalKlen_iff]
  obtain ⟨hbad, hs⟩ | ⟨hlegal, hs⟩ := execKeyexp_cases s
  · exact ⟨fun _ => hs, fun h => by simp [hbad] at h⟩
  · exact ⟨fun h => absurd hlegal h, fun _ => hs⟩

/-! ## One step of the expander (R195) -/

section
variable {s : State}

theorem engineStep_keyexp (hp : s.phase = .keyexp) : engineStep s = stepKeyexp s := by
  rw [engineStep, hp]

theorem stepKeyexp_of_done (hd : expanderDone s = true) :
    stepKeyexp s = .next (finish 0 { s with ekNk := s.kxNk, ekNr := s.kxNr, keyValid := true }) := if_pos hd

theorem stepKeyexp_of_word {w : Word} (hi : s.kxI.toNat < 60) (hw : expanderWord s = some w) :
    stepKeyexp s = .next { s with ek := s.ek.set s.kxI.toNat w hi, kxI := s.kxI + 1 } := by
  obtain ⟨hd, -⟩ | ⟨w', _, -, hw', hs⟩ | ⟨-, hstop, -⟩ := stepKeyexp_cases s
  · obtain ⟨-, -, h60⟩ := (expanderDone_iff s).1 hd
    omega
  · obtain rfl := Option.some.inj (hw.symm.trans hw')
    exact hs
  · obtain hnone | h60 := hstop
    · cases hw.symm.trans hnone
    · omega

/-- LOAD and GEN: a word of the key or of the schedule. -/
theorem expanderWord_of_schedule (h : s.kxI.toNat < s.kxNk.toNat ∨ s.kxI.toNat < schedWords s.kxNr.toNat) :
    expanderWord s = scheduleWord s.key s.kxNk.toNat s.kxI.toNat fun j => s.ek[j]? := if_pos h

/-- CLEAR: past both. -/
theorem expanderWord_of_past (hnk : s.kxNk.toNat ≤ s.kxI.toNat) (hnr : schedWords s.kxNr.toNat ≤ s.kxI.toNat) :
    expanderWord s = some 0 :=
  if_neg (not_or.2 ⟨Nat.not_lt.2 hnk, Nat.not_lt.2 hnr⟩)

/-- With the counters KEYEXP latches, nothing is left to write at KX_I = 60. -/
theorem expanderDone_at_60 (hnk : legalNk s.kxNk) (hnr : s.kxNr = s.kxNk + 6) (h60 : s.kxI.toNat = 60) :
    expanderDone s = true := by
  rw [expanderDone_iff, hnr, hnk.nr_toNat, nrOf]
  have := (legalNk_iff _).1 hnk
  omega

end

/-- Settles O35: below 60 the word written is `expanderWord`, whose branches are LOAD, GEN and CLEAR. -/
theorem expanderStepWritesOneWord : Obligations.ExpanderStepWritesOneWord := by
  intro s hinv hp
  obtain ⟨-, hnk, hnr, -⟩ := hinv.expander hp
  rw [stepWith_engine, engineStep_keyexp hp]
  refine ⟨fun hi => ?word, fun h60 => stepKeyexp_of_done (expanderDone_at_60 hnk hnr h60)⟩
  case word =>
    obtain ⟨w, hw⟩ := Option.isSome_iff_exists.1 (hinv.expanderWord_isSome hp hi)
    have hwritten : (s.ek.set s.kxI.toNat w hi)[s.kxI.toNat]? = some w := Vector.getElem?_set_self hi
    refine ⟨_, stepKeyexp_of_word hi hw, rfl, fun j hj => Vector.getElem?_set_ne hi hj.symm, fun hload => ?load,
      fun hge hgen => ?gen, fun hge hclear => ?clear⟩
    case load => rw [hwritten, ← hw, expanderWord_of_schedule (.inl hload), scheduleWord_of_lt hload]
    case gen =>
      have hnk0 : s.kxNk.toNat ≠ 0 := by
        have := (legalNk_iff _).1 hnk
        omega
      rw [expanderWord_of_schedule (.inr hgen)] at hw
      obtain ⟨prev, back, hprev, hback, hnext⟩ := (scheduleWord_eq_some_iff hnk0 hge).1 hw
      exact ⟨prev, back, hprev, hback, hwritten.trans hnext.symm⟩
    case clear => rw [hwritten, ← hw, expanderWord_of_past hge hclear]

/-! ## The expander's run (R195, R196) -/

/-- The expander runs alone on the bus, and below KX_I it has written the expansion `ws` of KEY. KEYEXP starts it from any
state, one that does not meet `Inv` too, so this says by itself what the run needs. -/
structure Expands (s : State) (ws : List Word) : Prop where
  running : s.phase = .keyexp
  alone : s.moves = []
  nk : legalNk s.kxNk
  nr : s.kxNr = s.kxNk + 6
  expansion : expandedStore s.key s.kxNk.toNat = some ws
  written : ∀ i, i < s.kxI.toNat → s.ek[i]? = ws[i]?

namespace Expands

variable {s : State} {ws : List Word}

theorem step_eq (h : Expands s ws) : step s = stepKeyexp s := by
  rw [← engineStep_keyexp h.running, step, nextMove, h.alone]

/-- The word to write next is the expansion's: the recurrence reads only words already written. -/
theorem expanderWord_eq (h : Expands s ws) (hi : s.kxI.toNat < 60) : expanderWord s = ws[s.kxI.toNat]? := by
  have hlegal := (legalNk_iff _).1 h.nk
  obtain ⟨-, hsched, htail⟩ := expandedStore_spec hlegal h.expansion
  rw [← h.nk.nr_toNat, ← h.nr] at hsched htail
  by_cases hlt : s.kxI.toNat < schedWords s.kxNr.toNat
  · rw [hsched _ hlt, expanderWord_of_schedule (.inr hlt), scheduleWord_congr h.written]
  · have hge : s.kxNk.toNat ≤ s.kxI.toNat := by
      rw [h.nr, h.nk.nr_toNat, schedWords, nrOf] at hlt
      omega
    rw [htail _ (Nat.le_of_not_lt hlt) hi, expanderWord_of_past hge (Nat.le_of_not_lt hlt)]

theorem step_word (h : Expands s ws) (hi : s.kxI.toNat < 60) :
    ∃ ek, step s = .next { s with ek := ek, kxI := s.kxI + 1 } ∧ Expands { s with ek := ek, kxI := s.kxI + 1 } ws := by
  obtain ⟨hlen, -, -⟩ := expandedStore_spec ((legalNk_iff _).1 h.nk) h.expansion
  have hw : ws[s.kxI.toNat]? = some ws[s.kxI.toNat] := List.getElem?_eq_getElem _
  refine ⟨_, h.step_eq.trans (stepKeyexp_of_word hi ((h.expanderWord_eq hi).trans hw)),
    { h with written := fun i hlt => ?_ }⟩
  simp only [kxI_succ_toNat hi] at hlt
  by_cases hieq : s.kxI.toNat = i
  · subst hieq
    rw [Vector.getElem?_set_self hi, hw]
  · rw [Vector.getElem?_set_ne hi hieq, h.written i (by omega)]

theorem store_eq (h : Expands s ws) (h60 : s.kxI.toNat = 60) : s.ek.toList = ws := by
  obtain ⟨hlen, -, -⟩ := expandedStore_spec ((legalNk_iff _).1 h.nk) h.expansion
  refine List.ext_getElem? fun i => ?_
  by_cases hi : i < 60
  · rw [Vector.getElem?_toList, h.written i (h60 ▸ hi)]
  · rw [List.getElem?_eq_none (by simpa using hi), List.getElem?_eq_none (by omega)]

/-- With n words left the expander completes in n + 1 steps, the expansion in EK. -/
theorem run_eq (h : Expands s ws) {n : Nat} (hn : s.kxI.toNat + n = 60) :
    ∃ ek, ek.toList = ws ∧ run (n + 1) s = .next (finish 0
      { s with ek := ek, kxI := 60, ekNk := s.kxNk, ekNr := s.kxNr, keyValid := true }) := by
  induction n generalizing s with
  | zero =>
    have hkx : s.kxI = 60 := BitVec.eq_of_toNat_eq hn
    have hdone := stepKeyexp_of_done (expanderDone_at_60 h.nk h.nr hn)
    refine ⟨s.ek, h.store_eq hn, (run_succ_of_next 0 (h.step_eq.trans hdone)).trans ?_⟩
    rw [run_zero, ← hkx]
  | succ n ih =>
    have hi : s.kxI.toNat < 60 := by omega
    obtain ⟨ek, hs, hnext⟩ := h.step_word hi
    obtain ⟨ek', hek', hrun⟩ := ih hnext (by simp only [kxI_succ_toNat hi]; omega)
    exact ⟨ek', hek', (run_succ_of_next (n + 1) hs).trans hrun⟩

end Expands

/-- The word count of a legal key fits KX_NK (R53, R180). -/
theorem nkOf_toNat {klen : Byte} (h : legalKlen klen = true) : (BitVec.ofNat 4 (nkOf klen)).toNat = nkOf klen := by
  have := (legalKlen_iff klen).1 h
  rw [BitVec.toNat_ofNat, nkOf]
  omega

/-- Settles O36: after KEYEXP's dispatch step the expander has written no word yet; `Expands.run_eq` does the rest. -/
theorem keyexpCommandExpandsTheKey : Obligations.KeyexpCommandExpandsTheKey := by
  intro s hm hklen
  have hl := (legalKlen_iff s.klen).2 hklen
  obtain ⟨hnk, hnr⟩ := nkOf_legal hl
  obtain ⟨ws, hws⟩ := expandedStore_isSome s.key ((legalNk_iff _).1 hnk)
  obtain ⟨-, hstart⟩ := keyexpDispatch s
  have hexpands : Expands { s with
      keyValid := false
      ekNk := 0
      ekNr := 0
      kxNk := BitVec.ofNat 4 (nkOf s.klen)
      kxNr := BitVec.ofNat 4 (nrOf (nkOf s.klen))
      kxI := 0
      phase := .keyexp } ws :=
    { running := rfl, alone := hm, nk := hnk, nr := hnr, expansion := hws
      written := fun i hi => absurd hi (Nat.not_lt_zero i) }
  obtain ⟨ek, hek, hrun⟩ := hexpands.run_eq (n := 60) rfl
  refine ⟨_, _, hstart hklen, hrun, rfl, ?_⟩
  rw [nkOf_toNat hl] at hws
  exact hws.trans (congrArg some hek.symm)

/-! ## Who writes the schedule (R40, R197) -/

/-- The registers of the schedule are the same in both states. -/
def sameSchedule (s t : State) : Prop :=
  t.keyValid = s.keyValid ∧ t.ekNk = s.ekNk ∧ t.ekNr = s.ekNr ∧ t.ek = s.ek

/-- No access of the host's writes the schedule: EXPKEY is read-only (R87). -/
theorem hostKeeps_sameSchedule (s : State) : HostKeeps (sameSchedule s) where
  record _ _ _ _ h := h
  overrun _ h := h
  write t v r _ h := by
    obtain ⟨hkv, hnr, hnk, -, hek, -⟩ := writeReg_frame t v r
    obtain ⟨hkv', hnk', hnr', hek'⟩ := h
    exact ⟨hkv.trans hkv', hnk.trans hnk', hnr.trans hnr', hek.trans hek'⟩

/-- A step that writes the schedule is reset or the engine's own. -/
theorem step_sameSchedule {s t : State} (hs : step s = .next t) :
    sameSchedule s t ∨ (∃ ms, s.moves = .reset :: ms) ∨
      (enginesTurn s ∧ ∃ ms, engineStep { s with moves := ms } = .next t) := by
  have host := hostKeeps_sameSchedule s
  have same : sameSchedule s s := ⟨rfl, rfl, rfl, rfl⟩
  obtain ⟨hm, hst⟩ | ⟨ms, hm, hst⟩ | ⟨a, ms, -, hst⟩ | ⟨ms, -, hst⟩ | ⟨ms, hm, -⟩ := step_cases s
  · exact .inr (.inr ⟨.inl hm, s.moves, hst.symm.trans hs⟩)
  · exact .inr (.inr ⟨.inr ⟨ms, hm⟩, ms, hst.symm.trans hs⟩)
  · cases hst.symm.trans hs; exact .inl (host.busAccess a same)
  · cases hst.symm.trans hs; exact .inl (host.waitTurn same)
  · exact .inr (.inl ⟨ms, hm⟩)

theorem execKeyexp_clears {s t : State} (h : execKeyexp s = .next t) :
    t.keyValid = false ∧ t.ekNk = 0 ∧ t.ekNr = 0 := by
  obtain ⟨-, hs⟩ | ⟨-, hs⟩ := execKeyexp_cases s <;> cases hs.symm.trans h <;> exact ⟨rfl, rfl, rfl⟩

/-- The engine writes the flags of the schedule in KEYEXP's dispatch step and at the expander's completion (R197). -/
theorem engineStep_flags {s t : State} (h : engineStep s = .next t) :
    (t.keyValid = s.keyValid ∧ t.ekNk = s.ekNk ∧ t.ekNr = s.ekNr) ∨
    (s.phase = .dispatch ∧ decode s.cmdLast = .ok .keyexp ∧ t.keyValid = false ∧ t.ekNk = 0 ∧ t.ekNr = 0) ∨
    (s.phase = .keyexp ∧ t.keyValid = true ∧ t.ekNk = s.kxNk ∧ t.ekNr = s.kxNr ∧ t.err = 0 ∧ t.phase = .idle) := by
  obtain ⟨-, he⟩ | ⟨hp, i, hd, he⟩ | ⟨-, e, -, he⟩ | ⟨hp, he⟩ | ⟨-, he⟩ := engineStep_cases s <;> rw [he] at h
  · cases h; exact .inl ⟨rfl, rfl, rfl⟩
  · by_cases hi : i = .keyexp
    · subst hi
      exact .inr (.inl ⟨hp, hd, execKeyexp_clears h⟩)
    · obtain ⟨hkv, hnk, hnr, -⟩ := exec_schedule h hi
      exact .inl ⟨hkv, hnk, hnr⟩
  · cases h; exact .inl ⟨rfl, rfl, rfl⟩
  · obtain ⟨-, hs⟩ | ⟨w, hi, -, -, hs⟩ | ⟨-, -, hs⟩ := stepKeyexp_cases s <;> cases hs.symm.trans h
    · exact .inr (.inr ⟨hp, rfl, rfl, rfl, rfl, rfl⟩)
    · exact .inl ⟨rfl, rfl, rfl⟩
  · obtain ⟨-, -, hs⟩ | ⟨-, -, hs⟩ | ⟨-, hs⟩ := stepCipher_cases s <;> cases hs.symm.trans h <;>
      exact .inl ⟨rfl, rfl, rfl⟩

/-- Only the running expander writes EK (R40). -/
theorem engineStep_ek {s t : State} (h : engineStep s = .next t) : t.ek = s.ek ∨ s.phase = .keyexp := by
  obtain ⟨-, he⟩ | ⟨-, i, -, he⟩ | ⟨-, e, -, he⟩ | ⟨hp, -⟩ | ⟨-, he⟩ := engineStep_cases s
  · cases he.symm.trans h; exact .inl rfl
  · exact .inl (exec_ek (he.symm.trans h))
  · cases he.symm.trans h; exact .inl rfl
  · exact .inr hp
  · obtain ⟨-, -, hs⟩ | ⟨-, -, hs⟩ | ⟨-, hs⟩ := stepCipher_cases s <;> cases hs.symm.trans (he.symm.trans h) <;>
      exact .inl rfl

/-- Settles O48: by `step_sameSchedule` the writer is reset or the engine, and then its phase says which step it is. -/
theorem onlyKeyexpAndResetWriteTheSchedule : Obligations.OnlyKeyexpAndResetWriteTheSchedule := by
  intro s t hs
  obtain ⟨hkv, hnk, hnr, hek⟩ | hreset | ⟨hturn, ms, he⟩ := step_sameSchedule hs
  · exact ⟨fun hne => by simp [hkv, hnk, hnr] at hne, fun hne => absurd hek hne⟩
  · exact ⟨fun _ => .inl hreset, fun _ => .inl hreset⟩
  · refine ⟨fun hne => .inr ⟨hturn, (engineStep_flags he).resolve_left ?_⟩,
      fun hne => .inr ⟨hturn, (engineStep_ek he).resolve_left hne⟩⟩
    rintro ⟨hkv, hnk, hnr⟩
    simp [hkv, hnk, hnr] at hne

end Sys2Proof.Machine

/-! # The round transforms: their laws, and the commands that apply them to the state

SubBytes and its inverse map a byte function over the block. ShiftRows and its inverse are rotations of the rows
(`rotateRows`), and rotations compose by adding (`rotateRows_rotateRows`). MixColumns and its inverse multiply each
column by a matrix; two products are one product by the product of the matrices (`mixByte_mixByte`). AddRoundKey is an XOR. -/

namespace Sys2Proof.Machine

/-! ## Substitution (R211, R212) -/

theorem subBytes_eq_map (b : Block) : subBytes b = b.map sbox :=
  Vector.ext fun i hi => by simp [subBytes]

theorem invSubBytes_eq_map (b : Block) : invSubBytes b = b.map invSbox :=
  Vector.ext fun i hi => by simp [invSubBytes]

theorem invSubBytes_subBytes (b : Block) : invSubBytes (subBytes b) = b := by
  have hinv : invSbox ∘ sbox = id := funext fun x => (sboxesAreInverse x).1
  rw [subBytes_eq_map, invSubBytes_eq_map, Vector.map_map, hinv, Vector.map_id]

theorem subBytes_invSubBytes (b : Block) : subBytes (invSubBytes b) = b := by
  have hinv : sbox ∘ invSbox = id := funext fun x => (sboxesAreInverse x).2
  rw [subBytes_eq_map, invSubBytes_eq_map, Vector.map_map, hinv, Vector.map_id]

/-- The S-box has no fixed point. -/
theorem sbox_ne_self (x : Byte) : sbox x ≠ x := by
  decide +revert

/-! ## Rotation of the rows (R213, R214) -/

/-- Row r rotated left by n * r columns. -/
def rotateRows (n : Nat) (b : Block) : Block :=
  Vector.ofFn fun i => b[i.val % 4 + 4 * ((i.val / 4 + n * (i.val % 4)) % 4)]

theorem rotateRows_getElem (n : Nat) (b : Block) {i : Nat} (hi : i < 16) :
    (rotateRows n b)[i] = b[i % 4 + 4 * ((i / 4 + n * (i % 4)) % 4)] := Vector.getElem_ofFn _

theorem rotateRows_getElem? (n : Nat) (b : Block) (i : Nat) :
    (rotateRows n b)[i]? = if i < 16 then b[i % 4 + 4 * ((i / 4 + n * (i % 4)) % 4)]? else none := by
  split
  case isTrue hi => rw [Vector.getElem?_eq_getElem hi, Vector.getElem?_eq_getElem (by omega), rotateRows_getElem]
  case isFalse hi => exact Vector.getElem?_eq_none (by omega)

/-- The byte in row r and column c. -/
theorem rotateRows_getElem?_row_col (n : Nat) (b : Block) {r c : Nat} (hr : r < 4) (hc : c < 4) :
    (rotateRows n b)[r + 4 * c]? = b[r + 4 * ((c + n * r) % 4)]? := by
  have hrow : (r + 4 * c) % 4 = r := by omega
  have hcol : (r + 4 * c) / 4 = c := by omega
  rw [rotateRows_getElem?, if_pos (by omega), hrow, hcol]

theorem shiftRows_eq_rotateRows (b : Block) : shiftRows b = rotateRows 1 b := by
  simp only [shiftRows, rotateRows, Nat.one_mul]

/-- A rotation right by r is a rotation left by 3 * r. -/
theorem invShiftRows_eq_rotateRows (b : Block) : invShiftRows b = rotateRows 3 b := by
  refine Vector.ext fun i hi => ?_
  have hcol : (i / 4 + 4 - i % 4) % 4 = (i / 4 + 3 * (i % 4)) % 4 := by omega
  rw [invShiftRows, Vector.getElem_ofFn, rotateRows_getElem]
  exact getElem_congr_idx (by rw [hcol])

theorem rotateRows_rotateRows (m n : Nat) (b : Block) : rotateRows m (rotateRows n b) = rotateRows (m + n) b := by
  refine Vector.ext fun i hi => ?_
  have hrow (c : Nat) : (i % 4 + 4 * (c % 4)) % 4 = i % 4 := by omega
  have hcol (c : Nat) : (i % 4 + 4 * (c % 4)) / 4 = c % 4 := by omega
  simp only [rotateRows_getElem, hrow, hcol]
  exact getElem_congr_idx (by rw [Nat.mod_add_mod, Nat.add_mul, Nat.add_assoc])

theorem rotateRows_four (b : Block) : rotateRows 4 b = b := by
  refine Vector.ext fun i hi => ?_
  rw [rotateRows_getElem]
  exact getElem_congr_idx (by omega)

theorem invShiftRows_shiftRows (b : Block) : invShiftRows (shiftRows b) = b := by
  rw [shiftRows_eq_rotateRows, invShiftRows_eq_rotateRows, rotateRows_rotateRows, rotateRows_four]

theorem shiftRows_invShiftRows (b : Block) : shiftRows (invShiftRows b) = b := by
  rw [shiftRows_eq_rotateRows, invShiftRows_eq_rotateRows, rotateRows_rotateRows, rotateRows_four]

theorem shiftRows_four_times (b : Block) : shiftRows (shiftRows (shiftRows (shiftRows b))) = b := by
  simp only [shiftRows_eq_rotateRows, rotateRows_rotateRows, Nat.reduceAdd, rotateRows_four]

/-- A rotated row depends on that row only. -/
theorem rotateRows_congr_row (n : Nat) {b b' : Block} {r : Nat} (h : ∀ i, i % 4 = r → b[i]? = b'[i]?) {i : Nat}
    (hi : i % 4 = r) : (rotateRows n b)[i]? = (rotateRows n b')[i]? := by
  rw [rotateRows_getElem?, rotateRows_getElem?, h _ (by omega)]

theorem rotateRows_row_zero (n : Nat) (b : Block) {c : Nat} (hc : c < 4) : (rotateRows n b)[4 * c]? = b[4 * c]? := by
  have h := rotateRows_getElem?_row_col n b (r := 0) (by decide) hc
  rwa [Nat.mul_zero, Nat.add_zero, Nat.mod_eq_of_lt hc, Nat.zero_add] at h

/-- Rotation moves bytes and does not look at them. -/
theorem rotateRows_map (f : Byte → Byte) (n : Nat) (b : Block) : rotateRows n (b.map f) = (rotateRows n b).map f :=
  Vector.ext fun i hi => by simp only [rotateRows_getElem, Vector.getElem_map]

/-! ## Products of a column with a matrix (R215, R216) -/

/-- A block is its bytes by column and row (R10). -/
theorem block_ext {b b' : Block} (h : ∀ (c : Nat) (hc : c < 4) (k : Fin 4), b[4 * c + k.val] = b'[4 * c + k.val]) :
    b = b' := by
  refine Vector.ext fun i hi => ?_
  have hbyte := h (i / 4) (by omega) ⟨i % 4, by omega⟩
  simpa only [Nat.div_add_mod] using hbyte

theorem mixWith_getElem (m : Matrix44) (b : Block) {c : Nat} (hc : c < 4) (k : Fin 4) :
    (mixWith m b)[4 * c + k.val] = mixByte m k b[4 * c] b[4 * c + 1] b[4 * c + 2] b[4 * c + 3] := by
  have hcol : (4 * c + k.val) / 4 = c := by omega
  have hrow : (4 * c + k.val) % 4 = k.val := by omega
  simp only [mixWith, Vector.getElem_ofFn, hcol, hrow]

/-- Entry (r, c) of the product of two matrices over the field. -/
def mixProduct (n m : Matrix44) (r c : Fin 4) : Byte :=
  gfmul n[r][0] m[0][c] ^^^ gfmul n[r][1] m[1][c] ^^^ gfmul n[r][2] m[2][c] ^^^ gfmul n[r][3] m[3][c]

/-- The product with m and then with n is the product with n × m. -/
theorem mixByte_mixByte (n m : Matrix44) (r : Fin 4) (a0 a1 a2 a3 : Byte) :
    mixByte n r (mixByte m 0 a0 a1 a2 a3) (mixByte m 1 a0 a1 a2 a3) (mixByte m 2 a0 a1 a2 a3)
      (mixByte m 3 a0 a1 a2 a3) =
    gfmul (mixProduct n m r 0) a0 ^^^ gfmul (mixProduct n m r 1) a1 ^^^ gfmul (mixProduct n m r 2) a2 ^^^
      gfmul (mixProduct n m r 3) a3 := by
  simp only [mixByte, mixProduct, gfmul_xor_left, gfmul_xor_right, gfmul_assoc]
  ac_rfl

theorem mixWith_column (m : Matrix44) (b : Block) {c : Nat} (hc : c < 4) :
    (mixWith m b)[4 * c] = mixByte m 0 b[4 * c] b[4 * c + 1] b[4 * c + 2] b[4 * c + 3] ∧
    (mixWith m b)[4 * c + 1] = mixByte m 1 b[4 * c] b[4 * c + 1] b[4 * c + 2] b[4 * c + 3] ∧
    (mixWith m b)[4 * c + 2] = mixByte m 2 b[4 * c] b[4 * c + 1] b[4 * c + 2] b[4 * c + 3] ∧
    (mixWith m b)[4 * c + 3] = mixByte m 3 b[4 * c] b[4 * c + 1] b[4 * c + 2] b[4 * c + 3] :=
  ⟨mixWith_getElem m b hc 0, mixWith_getElem m b hc 1, mixWith_getElem m b hc 2, mixWith_getElem m b hc 3⟩

theorem gfmul_zero_or_one (p : Prop) [Decidable p] (x : Byte) : gfmul (if p then 1 else 0) x = if p then x else 0 := by
  split
  · exact gfmul_one_left x
  · exact gfmul_zero_left x

/-- A sum with one coefficient 1 and the others 0. -/
theorem unitRow_product (k : Fin 4) (a : Fin 4 → Byte) :
    gfmul (if k = 0 then 1 else 0) (a 0) ^^^ gfmul (if k = 1 then 1 else 0) (a 1) ^^^
      gfmul (if k = 2 then 1 else 0) (a 2) ^^^ gfmul (if k = 3 then 1 else 0) (a 3) = a k := by
  simp only [gfmul_zero_or_one]
  fin_cases k <;> simp

/-- Multiplication by two matrices whose product is the identity gives the block back. -/
theorem mixWith_mixWith {n m : Matrix44} (h : ∀ r c, mixProduct n m r c = if r = c then 1 else 0) (b : Block) :
    mixWith n (mixWith m b) = b := by
  refine block_ext fun c hc k => ?_
  obtain ⟨h0, h1, h2, h3⟩ := mixWith_column m b hc
  rw [mixWith_getElem n _ hc, h0, h1, h2, h3, mixByte_mixByte, h, h, h, h]
  exact unitRow_product k fun j => b[4 * c + j.val]

theorem invMixColumns_mixColumns (b : Block) : invMixColumns (mixColumns b) = b :=
  mixWith_mixWith (fun r c => (mixMatricesAreInverse r c).2) b

theorem mixColumns_invMixColumns (b : Block) : mixColumns (invMixColumns b) = b :=
  mixWith_mixWith (fun r c => (mixMatricesAreInverse r c).1) b

/-- A mixed column depends on that column only. -/
theorem mixWith_congr_column (m : Matrix44) {b b' : Block} {c : Nat} (h : ∀ i, i / 4 = c → b[i]? = b'[i]?) {i : Nat}
    (hi : i / 4 = c) : (mixWith m b)[i]? = (mixWith m b')[i]? := by
  by_cases hc : c < 4
  · have byte (j : Nat) (hj : j < 4) : b[4 * c + j] = b'[4 * c + j] := by
      have hb := h (4 * c + j) (by omega)
      rwa [Vector.getElem?_eq_getElem, Vector.getElem?_eq_getElem, Option.some_inj] at hb
    have byte0 : b[4 * c] = b'[4 * c] := byte 0 (by decide)
    obtain ⟨k, rfl⟩ : ∃ k : Fin 4, i = 4 * c + k.val := ⟨⟨i % 4, by omega⟩, by dsimp only; omega⟩
    have hlt : 4 * c + k.val < 16 := by omega
    rw [Vector.getElem?_eq_getElem hlt, Vector.getElem?_eq_getElem hlt, mixWith_getElem m b hc, mixWith_getElem m b' hc,
      byte0, byte 1 (by decide), byte 2 (by decide), byte 3 (by decide)]
  · rw [Vector.getElem?_eq_none (by omega), Vector.getElem?_eq_none (by omega)]

/-- A column of four equal bytes is multiplied by the sum of the matrix's row. -/
theorem mixByte_equal (m : Matrix44) (r : Fin 4) (a : Byte) :
    mixByte m r a a a a = gfmul (m[r][0] ^^^ m[r][1] ^^^ m[r][2] ^^^ m[r][3]) a := by
  simp only [mixByte, gfmul_xor_left]

theorem mixWith_replicate {m : Matrix44} (hm : ∀ r : Fin 4, m[r][0] ^^^ m[r][1] ^^^ m[r][2] ^^^ m[r][3] = 1)
    (a : Byte) : mixWith m (Vector.replicate 16 a) = Vector.replicate 16 a := by
  refine block_ext fun c hc k => ?_
  rw [mixWith_getElem m _ hc]
  simp only [Vector.getElem_replicate]
  rw [mixByte_equal, hm, gfmul_one_left]

/-- A column of four equal bytes stays where each row of the matrix adds up to 1. -/
theorem mixWith_equal_column {m : Matrix44} (hm : ∀ r : Fin 4, m[r][0] ^^^ m[r][1] ^^^ m[r][2] ^^^ m[r][3] = 1)
    {b : Block} {a : Byte} {c : Nat} (hc : c < 4) (h : ∀ i, i / 4 = c → b[i]? = some a) {i : Nat} (hi : i / 4 = c) :
    (mixWith m b)[i]? = some a := by
  have equal (j : Nat) (hj : j < 16) : (Vector.replicate 16 a)[j]? = some a := by
    rw [Vector.getElem?_eq_getElem hj, Vector.getElem_replicate]
  rw [mixWith_congr_column m (b' := Vector.replicate 16 a) (fun j hj => (h j hj).trans (equal j (by omega)).symm) hi,
    mixWith_replicate hm, equal i (by omega)]

theorem mixByte_mix (a0 a1 a2 a3 : Byte) :
    mixByte mix 0 a0 a1 a2 a3 = gfmul 2 a0 ^^^ gfmul 3 a1 ^^^ a2 ^^^ a3 ∧
    mixByte mix 1 a0 a1 a2 a3 = a0 ^^^ gfmul 2 a1 ^^^ gfmul 3 a2 ^^^ a3 ∧
    mixByte mix 2 a0 a1 a2 a3 = a0 ^^^ a1 ^^^ gfmul 2 a2 ^^^ gfmul 3 a3 ∧
    mixByte mix 3 a0 a1 a2 a3 = gfmul 3 a0 ^^^ a1 ^^^ a2 ^^^ gfmul 2 a3 := by
  have one (x : Byte) : gfmul 1#8 x = x := gfmul_one_left x
  simp [mixByte, mix, one]

/-! ## The round key (R217) -/

theorem addRoundKey_getElem (ek : Vector Word 60) (b : Block) {r n : Nat} (hr : r ≤ 14) (hn : n < 16) :
    (addRoundKey ek b r)[n] = b[n] ^^^ byteOf ek[4 * r + n / 4] (n % 4) := by
  have hbyte : 16 * r + n = 4 * (4 * r + n / 4) + n % 4 := by omega
  have hword : ek[4 * r + n / 4]? = some ek[4 * r + n / 4] := Vector.getElem?_eq_getElem _
  simp only [addRoundKey, Vector.getElem_ofFn, Fin.getElem_fin]
  rw [hbyte, ekByte_of_word hword (by omega)]

theorem addRoundKey_addRoundKey (ek : Vector Word 60) (b : Block) (r : Nat) :
    addRoundKey ek (addRoundKey ek b r) r = b :=
  Vector.ext fun n hn => by simp [addRoundKey]

/-- A word is its four bytes (R9). -/
theorem word_ext_byteOf {w v : Word} (h : ∀ k, k < 4 → byteOf w k = byteOf v k) : w = v := by
  have byte (k : Nat) (hk : k < 4) : w.toNat / 2 ^ (24 - 8 * k) % 2 ^ 8 = v.toNat / 2 ^ (24 - 8 * k) % 2 ^ 8 := by
    rw [← byteOf_toNat, h k hk, byteOf_toNat]
  have h0 := byte 0 (by decide)
  have h1 := byte 1 (by decide)
  have h2 := byte 2 (by decide)
  have h3 := byte 3 (by decide)
  have hw := w.isLt
  have hv := v.isLt
  refine BitVec.eq_of_toNat_eq ?_
  omega

/-- The round key is added word by word (R81). -/
theorem columnWord_addRoundKey (ek : Vector Word 60) (b : Block) {r : Nat} (hr : r ≤ 14) (c : Fin 4) :
    columnWord (addRoundKey ek b r) c = columnWord b c ^^^ ek[4 * r + c.val] := by
  refine word_ext_byteOf fun k hk => ?_
  have hcol : (4 * c.val + k) / 4 = c.val := by omega
  have hrow : (4 * c.val + k) % 4 = k := by omega
  have hxor (w v : Word) : byteOf (w ^^^ v) k = byteOf w k ^^^ byteOf v k := BitVec.extractLsb'_xor
  rw [hxor, byteOf_columnWord _ _ hk, byteOf_columnWord _ _ hk, addRoundKey_getElem ek b hr (by omega)]
  simp only [hcol, hrow]

/-! ## The obligations -/

/-- Settles O33, a lemma for each law. -/
theorem transformLaws : Obligations.TransformLaws := by
  refine ⟨fun b => ⟨invSubBytes_subBytes b, subBytes_invSubBytes b⟩,
    fun b => ⟨invShiftRows_shiftRows b, shiftRows_invShiftRows b⟩,
    fun b => ⟨invMixColumns_mixColumns b, mixColumns_invMixColumns b⟩,
    addRoundKey_addRoundKey, fun b => ?commute, fun b b' i h => ?byte, fun b b' r h i hi => ?row,
    fun b b' c h i hi => ⟨mixWith_congr_column mix h hi, mixWith_congr_column invMix h hi⟩⟩
  case commute =>
    simp only [subBytes_eq_map, shiftRows_eq_rotateRows, rotateRows_map]
  case byte =>
    simp only [subBytes_eq_map, invSubBytes_eq_map, Vector.getElem?_map, h, and_self]
  case row =>
    rw [shiftRows_eq_rotateRows, shiftRows_eq_rotateRows, invShiftRows_eq_rotateRows, invShiftRows_eq_rotateRows]
    exact ⟨rotateRows_congr_row 1 h hi, rotateRows_congr_row 3 h hi⟩

/-- Settles O30: SR and ISR are rotations by r and by 3 * r columns, which agree where r is even. -/
theorem rowShiftCommands : Obligations.RowShiftCommands := by
  refine ⟨rfl, rfl, fun s => ⟨_, rfl, fun r c hr hc => ?left, fun i hi => ?permP⟩,
    fun s => ⟨_, rfl, fun r c hr hc => ?right, fun i hi => ?permQ⟩, shiftRows_four_times, fun b c hc => ?row0,
    fun b i hi => ?agree⟩
  case left => rw [shiftRows_eq_rotateRows, rotateRows_getElem?_row_col 1 _ hr hc, Nat.one_mul]
  case permP =>
    have hP : ∀ i < 16, i % 4 + 4 * ((i / 4 + 1 * (i % 4)) % 4) =
      ([0, 5, 10, 15, 4, 9, 14, 3, 8, 13, 2, 7, 12, 1, 6, 11] : List Nat).getD i 16 := by decide
    rw [shiftRows_eq_rotateRows, rotateRows_getElem?, if_pos hi, hP i hi]
  case right =>
    have hback : ((c + r) % 4 + 3 * r) % 4 = c := by omega
    rw [invShiftRows_eq_rotateRows, rotateRows_getElem?_row_col 3 _ hr (Nat.mod_lt _ (by decide)), hback]
  case permQ =>
    have hQ : ∀ i < 16, i % 4 + 4 * ((i / 4 + 3 * (i % 4)) % 4) =
      ([0, 13, 10, 7, 4, 1, 14, 11, 8, 5, 2, 15, 12, 9, 6, 3] : List Nat).getD i 16 := by decide
    rw [invShiftRows_eq_rotateRows, rotateRows_getElem?, if_pos hi, hQ i hi]
  case row0 =>
    rw [shiftRows_eq_rotateRows, invShiftRows_eq_rotateRows]
    exact ⟨rotateRows_row_zero 1 b hc, rotateRows_row_zero 3 b hc⟩
  case agree =>
    have hcol : (i / 4 + 1 * (i % 4)) % 4 = (i / 4 + 3 * (i % 4)) % 4 := by omega
    rw [shiftRows_eq_rotateRows, invShiftRows_eq_rotateRows, rotateRows_getElem?, rotateRows_getElem?, hcol]

/-- Settles O31: a byte of a column is `mixByte` of that column, and the rows of both matrices add up to 1. -/
theorem columnMixCommands : Obligations.ColumnMixCommands := by
  have hmix : ∀ r : Fin 4, mix[r][0] ^^^ mix[r][1] ^^^ mix[r][2] ^^^ mix[r][3] = 1 := by decide
  have hinvMix : ∀ r : Fin 4, invMix[r][0] ^^^ invMix[r][1] ^^^ invMix[r][2] ^^^ invMix[r][3] = 1 := by decide
  refine ⟨rfl, rfl, fun s => ⟨_, rfl, fun c hc => ?mc⟩, fun s => ⟨_, rfl, fun c hc => mixWith_column invMix s.st hc⟩,
    fun b a c hc h i hi => ⟨mixWith_equal_column hmix hc h hi, mixWith_equal_column hinvMix hc h hi⟩, ?_, ?_, ?_⟩
  case mc =>
    obtain ⟨h0, h1, h2, h3⟩ := mixWith_column mix s.st hc
    obtain ⟨m0, m1, m2, m3⟩ := mixByte_mix s.st[4 * c] s.st[4 * c + 1] s.st[4 * c + 2] s.st[4 * c + 3]
    exact ⟨h0.trans m0, h1.trans m1, h2.trans m2, h3.trans m3⟩
  all_goals rfl

/-- Settles O32: the hypotheses of each clause leave one of the cases of `execArk_cases`. -/
theorem addRoundKeyCommand : Obligations.AddRoundKeyCommand := by
  refine ⟨fun r hr => decodeOfEncodeIsTheCommand (.ark r) (decide_eq_true hr), fun s r hk => ?nokey,
    fun s r hk hr => ?range, fun s r hk hr hr14 => ?added⟩
  case nokey =>
    obtain ⟨-, hs⟩ | ⟨hk', -⟩ | ⟨hk', -⟩ | ⟨hk', -⟩ := execArk_cases r s
    · exact hs
    all_goals cases hk.symm.trans hk'
  case range =>
    obtain ⟨hk', -⟩ | ⟨-, -, hs⟩ | ⟨-, hle, -⟩ | ⟨-, hle, -⟩ := execArk_cases r s
    · cases hk.symm.trans hk'
    · exact hs
    all_goals exact absurd hr (Nat.not_lt.2 hle)
  case added =>
    obtain ⟨hk', -⟩ | ⟨-, hlt, -⟩ | ⟨-, -, -, hs⟩ | ⟨-, -, hgt, -⟩ := execArk_cases r s
    · cases hk.symm.trans hk'
    · exact absurd hlt (Nat.not_lt.2 hr)
    · exact ⟨_, hs, fun n hn => addRoundKey_getElem s.ek s.st hr14 hn, columnWord_addRoundKey s.ek s.st hr14⟩
    · exact absurd hgt (Nat.not_lt.2 hr14)

/-- Settles O29: both commands map a byte function over the block. -/
theorem substitutionCommands : Obligations.SubstitutionCommands := by
  refine ⟨rfl, rfl, fun s => ⟨_, rfl, fun i hi => ?sb⟩, fun s => ⟨_, rfl, fun i hi => ?isb⟩, sbox_ne_self, ?_, ?_⟩
  case sb => simp only [subBytes_eq_map, Vector.getElem_map]
  case isb => simp only [invSubBytes_eq_map, Vector.getElem_map]
  all_goals rfl

end Sys2Proof.Machine

/-! # The cipher: the round table, the sequencer's run, ENC and DEC, the round trip

The sequencer's run is an induction on the rounds left, over `Sequences`: ST holds the rounds before RC. Encryption and
decryption meet in the middle: a middle round of the one undoes a middle round of the other (`middleRound_iff`), so
whether the two meet does not depend on where (`rounds_meet_iff`), and at the two ends it says `cipher ek nr a = c` and
`invCipher ek nr c = a`. -/

namespace Sys2Proof.Machine

/-! ## The round table (R253) -/

section
variable (ek : Vector Word 60) {k nr : Nat} (b : Block)

theorem roundFn_initial (dir : Direction) (nr : Nat) :
    roundFn dir 0 nr ek b = addRoundKey ek b (roundKeyIndex dir 0 nr) := by
  cases dir <;> rfl

theorem roundFn_encrypt_middle (hk : 1 ≤ k) (hlt : k < nr) :
    roundFn .encrypt k nr ek b = addRoundKey ek (mixColumns (shiftRows (subBytes b))) k :=
  (if_neg (Nat.ne_of_gt hk)).trans (if_pos hlt)

theorem roundFn_encrypt_final (hnr : 1 ≤ nr) :
    roundFn .encrypt nr nr ek b = addRoundKey ek (shiftRows (subBytes b)) nr :=
  (if_neg (Nat.ne_of_gt hnr)).trans (if_neg (Nat.lt_irrefl nr))

theorem roundFn_decrypt_middle (hk : 1 ≤ k) (hlt : k < nr) :
    roundFn .decrypt k nr ek b = invMixColumns (addRoundKey ek (invSubBytes (invShiftRows b)) (nr - k)) :=
  (if_neg (Nat.ne_of_gt hk)).trans (if_pos hlt)

theorem roundFn_decrypt_final (hnr : 1 ≤ nr) :
    roundFn .decrypt nr nr ek b = addRoundKey ek (invSubBytes (invShiftRows b)) 0 := by
  rw [← Nat.sub_self nr]
  exact (if_neg (Nat.ne_of_gt hnr)).trans (if_neg (Nat.lt_irrefl nr))

end

/-! ## ENC's and DEC's dispatch step (R260, R265, R303) -/

section
variable {s : State} (dir : Direction)

theorem startCipher_of_noKey (hk : s.keyValid = false) : startCipher dir s = .next (finish 3 s) := if_pos hk

theorem startCipher_of_key (hk : s.keyValid = true) :
    startCipher dir s = .next { s with dir := dir, rc := 0, phase := .cipher } := if_neg (by simp [hk])

end

/-- Settles O38: ENC and DEC are `startCipher` with their direction. -/
theorem cipherDispatch : Obligations.CipherDispatch := fun _ =>
  ⟨fun hk => ⟨startCipher_of_noKey .encrypt hk, startCipher_of_noKey .decrypt hk⟩,
    fun hk => ⟨startCipher_of_key .encrypt hk, startCipher_of_key .decrypt hk⟩⟩

/-! ## One step of the sequencer (R254) -/

section
variable {s : State}

theorem engineStep_cipher (hp : s.phase = .cipher) : engineStep s = stepCipher s := by
  rw [engineStep, hp]

theorem stepCipher_of_last (hrc : s.rc = s.ekNr) (h14 : s.ekNr.toNat ≤ 14) :
    stepCipher s = .next (finish 0 { s with st := roundFn s.dir s.rc.toNat s.ekNr.toNat s.ek s.st }) := by
  obtain ⟨-, -, hs⟩ | ⟨hlt, -⟩ | ⟨hout, -⟩ := stepCipher_cases s
  · exact hs
  · rw [hrc] at hlt
    omega
  · rw [hrc] at hout
    omega

theorem stepCipher_of_lt (hlt : s.rc.toNat < s.ekNr.toNat) (h14 : s.ekNr.toNat ≤ 14) :
    stepCipher s = .next { s with st := roundFn s.dir s.rc.toNat s.ekNr.toNat s.ek s.st, rc := s.rc + 1 } := by
  obtain ⟨hrc, -⟩ | ⟨-, -, hs⟩ | ⟨hout, -⟩ := stepCipher_cases s
  · rw [hrc] at hlt
    omega
  · exact hs
  · omega

theorem rc_succ_toNat {rc nr : Nibble} (h : rc.toNat < nr.toNat) : (rc + 1).toNat = rc.toNat + 1 := by
  bv_omega

end

/-- Settles O39: the block is `roundFn`'s, which has a lemma for each row; the step is the last one or one before it. -/
theorem sequencerStepComputesOneRound : Obligations.SequencerStepComputesOneRound := by
  intro s hp hle h14
  rw [stepWith_engine, engineStep_cipher hp]
  refine ⟨roundFn s.dir s.rc.toNat s.ekNr.toNat s.ek s.st, fun hd h0 => ?encInitial, fun hd h1 hlt => ?encMiddle,
    fun hd h1 heq => ?encFinal, fun hd h0 => ?decInitial, fun hd h1 hlt => ?decMiddle, fun hd h1 heq => ?decFinal,
    fun heq => stepCipher_of_last (BitVec.eq_of_toNat_eq heq) h14,
    fun hlt => ⟨_, stepCipher_of_lt hlt h14, rfl, rc_succ_toNat hlt⟩⟩
  case encInitial | decInitial => rw [hd, h0, roundFn_initial]; rfl
  case encMiddle => rw [hd, roundFn_encrypt_middle _ _ h1 hlt]
  case encFinal => rw [hd, heq, roundFn_encrypt_final _ _ (heq ▸ h1)]
  case decMiddle => rw [hd, roundFn_decrypt_middle _ _ h1 hlt]
  case decFinal => rw [hd, heq, roundFn_decrypt_final _ _ (heq ▸ h1)]

/-! ## The sequencer's run (R254, R255) -/

/-- The sequencer runs alone on the bus, and ST holds what the rounds before RC make of the block `b`. -/
structure Sequences (s : State) (b : Block) : Prop where
  running : s.phase = .cipher
  alone : s.moves = []
  inStore : s.ekNr.toNat ≤ 14
  computed : s.st = rounds s.dir s.ekNr.toNat s.ek s.rc.toNat b

namespace Sequences

variable {s : State} {b : Block}

theorem step_eq (h : Sequences s b) : step s = stepCipher s := by
  rw [← engineStep_cipher h.running, step, nextMove, h.alone]

theorem roundFn_eq (h : Sequences s b) :
    roundFn s.dir s.rc.toNat s.ekNr.toNat s.ek s.st = rounds s.dir s.ekNr.toNat s.ek (s.rc.toNat + 1) b := by
  rw [h.computed, rounds]

/-- With n rounds left after the next one the sequencer completes in n + 1 steps. -/
theorem run_eq (h : Sequences s b) {n : Nat} (hn : s.rc.toNat + n = s.ekNr.toNat) :
    run (n + 1) s = .next (finish 0
      { s with st := rounds s.dir s.ekNr.toNat s.ek (s.ekNr.toNat + 1) b, rc := s.ekNr }) := by
  induction n generalizing s with
  | zero =>
    have hrc : s.rc = s.ekNr := BitVec.eq_of_toNat_eq hn
    rw [run_succ_of_next 0 (h.step_eq.trans (stepCipher_of_last hrc h.inStore)), run_zero, h.roundFn_eq, ← hrc]
  | succ n ih =>
    have hlt : s.rc.toNat < s.ekNr.toNat := by omega
    have hsucc := rc_succ_toNat hlt
    have hs := h.step_eq.trans (stepCipher_of_lt hlt h.inStore)
    rw [h.roundFn_eq] at hs
    rw [run_succ_of_next (n + 1) hs]
    exact ih { h with computed := by simp only [hsucc] } (by simp only [hsucc]; omega)

end Sequences

/-- A whole command of the sequencer's, from its dispatch step on. -/
theorem startCipher_run (dir : Direction) {s : State} (hm : s.moves = []) (hk : s.keyValid = true)
    (h14 : s.ekNr.toNat ≤ 14) :
    ∃ t₀, startCipher dir s = .next t₀ ∧
      run (s.ekNr.toNat + 1) t₀ = .next (finish 0
        { s with st := rounds dir s.ekNr.toNat s.ek (s.ekNr.toNat + 1) s.st, dir := dir, rc := s.ekNr }) := by
  have hstart : Sequences { s with dir := dir, rc := 0, phase := .cipher } s.st :=
    { running := rfl, alone := hm, inStore := h14, computed := rfl }
  exact ⟨_, startCipher_of_key dir hk, hstart.run_eq (Nat.zero_add _)⟩

/-- Settles O40: the forward run. -/
theorem encCommandEncrypts : Obligations.EncCommandEncrypts := fun _ => startCipher_run .encrypt

/-- Settles O41: the inverse run. -/
theorem decCommandDecrypts : Obligations.DecCommandDecrypts := fun _ => startCipher_run .decrypt

/-! ## The round trip (R256) -/

section
variable {ek : Vector Word 60} {k nr : Nat} {a c d e : Block}

theorem addRoundKey_eq_iff : addRoundKey ek a k = c ↔ a = addRoundKey ek c k :=
  Function.Involutive.eq_iff (f := (addRoundKey ek · k)) (addRoundKey_addRoundKey ek · k)

theorem mixColumns_eq_iff : mixColumns a = c ↔ a = invMixColumns c :=
  ⟨fun h => by rw [← h, invMixColumns_mixColumns], fun h => by rw [h, mixColumns_invMixColumns]⟩

theorem shiftRows_subBytes_eq_iff : shiftRows (subBytes a) = c ↔ a = invSubBytes (invShiftRows c) :=
  ⟨fun h => by rw [← h, invShiftRows_shiftRows, invSubBytes_subBytes],
    fun h => by rw [h, subBytes_invSubBytes, shiftRows_invShiftRows]⟩

/-- Middle round k of the encryption and middle round nr - k of the decryption undo each other, but for the substitution
and the shift that each does first. -/
theorem middleRound_iff (hk : 1 ≤ k) (hlt : k < nr) :
    shiftRows (subBytes (roundFn .encrypt k nr ek e)) = d ↔
      shiftRows (subBytes e) = roundFn .decrypt (nr - k) nr ek d := by
  have hback : nr - (nr - k) = k := Nat.sub_sub_self (Nat.le_of_lt hlt)
  rw [roundFn_encrypt_middle ek e hk hlt, roundFn_decrypt_middle ek d (by omega) (by omega), hback,
    shiftRows_subBytes_eq_iff, addRoundKey_eq_iff, mixColumns_eq_iff]

/-- Encrypting `a` up to round n and decrypting `c` up to round m, with all nr + 1 rounds done between them, the two
meet exactly when they meet after the encryption's initial round. -/
theorem rounds_meet_iff {n m : Nat} (h : n + m + 1 = nr) :
    shiftRows (subBytes (rounds .encrypt nr ek (n + 1) a)) = rounds .decrypt nr ek (m + 1) c ↔
      shiftRows (subBytes (rounds .encrypt nr ek 1 a)) = rounds .decrypt nr ek nr c := by
  induction n generalizing m with
  | zero => rw [← h, Nat.zero_add]
  | succ n ih =>
    have hm : nr - (n + 1) = m + 1 := by omega
    rw [← ih (m := m + 1) (by omega), rounds, middleRound_iff (by omega) (by omega), hm, ← rounds]

/-- At the one end the two meet when `c` is the encryption of `a`, at the other when `a` is the decryption of `c`. -/
theorem cipher_eq_iff_invCipher_eq (hnr : 1 ≤ nr) : cipher ek nr a = c ↔ invCipher ek nr c = a := by
  have henc : cipher ek nr a = c ↔
      shiftRows (subBytes (rounds .encrypt nr ek nr a)) = rounds .decrypt nr ek 1 c := by
    rw [cipher, rounds, roundFn_encrypt_final _ _ hnr, addRoundKey_eq_iff, rounds, roundFn_initial]
    rfl
  have hdec : invCipher ek nr c = a ↔
      shiftRows (subBytes (rounds .encrypt nr ek 1 a)) = rounds .decrypt nr ek nr c := by
    rw [invCipher, rounds, roundFn_decrypt_final _ _ hnr, addRoundKey_eq_iff, shiftRows_subBytes_eq_iff, eq_comm,
      rounds, roundFn_initial]
    rfl
  have hmeet := rounds_meet_iff (ek := ek) (nr := nr) (a := a) (c := c) (n := nr - 1) (m := 0) (by omega)
  rw [Nat.sub_add_cancel hnr] at hmeet
  exact henc.trans (hmeet.trans hdec.symm)

end

/-- Settles O42: both directions of `cipher_eq_iff_invCipher_eq`. -/
theorem cipherRoundTrip : Obligations.CipherRoundTrip := fun _ _ _ hnr =>
  ⟨(cipher_eq_iff_invCipher_eq hnr).1 rfl, (cipher_eq_iff_invCipher_eq hnr).2 rfl⟩

end Sys2Proof.Machine

/-! # Control: dispatch, acceptance, NOP, BUSY, completion, the atomic view

A running command always owes its result (`Owes`): the atomic view at acceptance, and from then on what the expander or
the sequencer has yet to make of it. Every step that is not a reset keeps the debt (`Owes.step`), and a completed
command has paid it. -/

namespace Sys2Proof.Machine

/-! ## Dispatch and acceptance (R280, R282, R286) -/

theorem engineStep_dispatch {s : State} {i : Instr} (hp : s.phase = .dispatch) (hd : decode s.cmdLast = .ok i) :
    engineStep s = exec i s := by
  simp [engineStep, hp, stepDispatch, hd]

/-- Settles O7: whichever way the turn is the engine's, its step is `engineStep`. -/
theorem stepRunsDecodedCommand : Obligations.StepRunsDecodedCommand := by
  intro s i hp hd
  refine ⟨fun hm => ?alone, fun ms hm => (step_of_moves hm).trans (engineStep_dispatch hp hd)⟩
  case alone =>
    rw [step, nextMove, hm]
    exact engineStep_dispatch hp hd

/-- Settles O9: idle, CTRL takes any word, and the write is `accept`; busy, CTRL is not among the registers a write
reaches. -/
theorem ctrlWriteAcceptsOrOverruns : Obligations.CtrlWriteAcceptsOrOverruns := fun s v =>
  ⟨fun hidle => writes_of_taken v (off := 0x000) (by decide) rfl (.inl ((not_busy_iff s).2 hidle)),
    fun hp => writes_of_dropped v (off := 0x000) (by decide) rfl ((busy_iff s).2 hp) rfl⟩

/-- Settles O20: acceptance of the word 0, and the dispatch step that it decodes to. -/
theorem nopCompletes : Obligations.NopCompletes := by
  refine ⟨by decide, by decide, fun _ => rfl, fun s hidle => ⟨.written, ?_⟩⟩
  have haccept := stepWith_wr_ctrl (encode .nop) (s := { s with moves := [] }) hidle
  have hdispatch := engineStep_dispatch (s := answer .written (accept (encode .nop) { s with moves := [] })) rfl
    (decodeOfEncodeIsTheCommand .nop rfl)
  refine ((run_succ_of_next 1 haccept).trans (run_succ_of_next 0 hdispatch)).trans ?_
  rw [run_zero, finish, answer, accept, hidle]
  rfl

/-! ## STATUS of a running command (R281) -/

theorem statusWord_doneBit (s : State) : (statusWord s).getLsbD 1 = s.done := by
  rw [statusWord, BitVec.getLsbD_append, BitVec.getLsbD_append]
  simp [bit]

theorem statusWord_err (s : State) : (statusWord s).extractLsb' 8 4 = s.err := by
  have herr := s.err.isLt
  have hovr := (bit s.ovr).isLt
  have hkey := (bit s.keyValid).isLt
  have hdone := (bit s.done).isLt
  have hbusy := (bit (busy s)).isLt
  rw [← BitVec.toNat_inj, BitVec.extractLsb'_toNat, Nat.shiftRight_eq_div_pow, statusWord]
  simp only [toNat_append_eq, BitVec.ofNat_eq_ofNat, BitVec.toNat_zero]
  omega

/-- Settles O47: the read gives `statusWord`, and `Inv.quiet` its fields. -/
theorem statusReadsQuietWhileBusy : Obligations.StatusReadsQuietWhileBusy := by
  intro s hinv hp
  have hb := (busy_iff s).2 hp
  obtain ⟨hdone, herr⟩ := hinv.quiet hb
  exact ⟨statusWord s, reads_of_defined (off := 0x004) (by decide) rfl (.inr rfl), (statusWord_busyBit s).trans hb,
    (statusWord_doneBit s).trans hdone, (statusWord_err s).trans herr⟩

/-! ## The steps a command takes (R283, R360) -/

theorem stepsLeft_eq_zero_iff {s : State} (hinv : Inv s) : stepsLeft s = 0 ↔ s.phase = .idle := by
  refine ⟨fun h0 => by_contra fun hp => ?_, fun hp => by rw [stepsLeft, hp]⟩
  obtain ⟨t, ht⟩ := engineStep_isNext_of_inv hinv
  have := engineStep_stepsLeft hinv hp ht
  omega

theorem stepsLeft_le (s : State) : stepsLeft s ≤ 62 := by
  have hnr := s.ekNr.isLt
  rw [stepsLeft]
  split
  · omega
  · rw [stepsFromDispatch]
    repeat' split
    all_goals omega
  · omega
  · omega

theorem exec_completes {i : Instr} {s t : State} (h : exec i s = .next t) (ht : t.phase = .idle) : t.done = true := by
  obtain ⟨code, st, p, -, -, rfl⟩ | ⟨-, hk⟩ | ⟨dir, -, rfl⟩ := exec_next_cases h
  · rfl
  · obtain ⟨-, hs⟩ | ⟨-, hs⟩ := execKeyexp_cases s <;> cases hs.symm.trans hk
    · rfl
    · cases ht
  · cases ht

/-- A command that ends sets DONE, with an error or without (R284). -/
theorem engineStep_completes {s t : State} (hp : s.phase ≠ .idle) (h : engineStep s = .next t) (ht : t.phase = .idle) :
    t.done = true := by
  obtain ⟨hi, -⟩ | ⟨-, i, -, he⟩ | ⟨-, e, -, he⟩ | ⟨hk, he⟩ | ⟨hc, he⟩ := engineStep_cases s
  · exact absurd hi hp
  · exact exec_completes (he.symm.trans h) ht
  · cases he.symm.trans h; rfl
  · obtain ⟨-, hs⟩ | ⟨w, hi, -, -, hs⟩ | ⟨-, -, hs⟩ := stepKeyexp_cases s <;> cases hs.symm.trans (he.symm.trans h)
    · rfl
    · cases hk.symm.trans ht
  · obtain ⟨-, -, hs⟩ | ⟨-, -, hs⟩ | ⟨-, hs⟩ := stepCipher_cases s <;> cases hs.symm.trans (he.symm.trans h)
    · rfl
    · cases hc.symm.trans ht

/-- Settles O52: the bound by phase, and the rest by induction on the steps left, each engine step being one of them. -/
theorem commandsCompleteInTheStatedSteps : Obligations.CommandsCompleteInTheStatedSteps := by
  intro s hinv hm hp
  refine ⟨stepsLeft_le s, ?_⟩
  induction hn : stepsLeft s generalizing s with
  | zero => exact absurd ((stepsLeft_eq_zero_iff hinv).1 hn) hp
  | succ n ih =>
    obtain ⟨t, ht⟩ := engineStep_isNext_of_inv hinv
    have hleft := engineStep_stepsLeft hinv hp ht
    have hinv' := hinv.engineStep ht
    have hs : step s = .next t := by rw [step, nextMove, hm, ht]
    by_cases hidle : t.phase = .idle
    · have hn0 : n = 0 := by
        have := (stepsLeft_eq_zero_iff hinv').2 hidle
        omega
      subst hn0
      refine ⟨⟨t, run_succ_of_next 0 hs, hidle, engineStep_completes hp ht hidle⟩, fun j hj => ?_⟩
      obtain rfl : j = 0 := by omega
      exact ⟨s, rfl, hp⟩
    · obtain ⟨⟨t', hrun, hend⟩, hbusy⟩ :=
        ih t hinv' ((engineStep_leaves ht).moves.trans hm) hidle (by omega)
      refine ⟨⟨t', (run_succ_of_next n hs).trans hrun, hend⟩, fun j hj => ?_⟩
      cases j with
      | zero => exact ⟨s, rfl, hp⟩
      | succ j =>
        obtain ⟨u, hu, hup⟩ := hbusy j (by omega)
        exact ⟨u, (run_succ_of_next j hs).trans hu, hup⟩

/-! ## The atomic view (R285) -/

/-- The same state with none of the host's moves to come. -/
def alone (s : State) : State := { s with moves := [] }

/-- The command in progress in `s` owes the result `r`, and a completed one has paid it: with its dispatch step to come
it owes its atomic view, the expander owes the expansion it is writing, the sequencer all the rounds of the block it
began with. -/
inductive Owes (s : State) : CommandResult → Prop
  | dispatch (hp : s.phase = .dispatch) : Owes s (atomicResult s)
  | expander {ws : List Word} (h : Expands (alone s) ws) :
      Owes s { resultOf s with ek := some ws, keyValid := true, ekNk := s.kxNk, ekNr := s.kxNr, err := 0 }
  | sequencer {b : Block} (h : Sequences (alone s) b) :
      Owes s (blockResult (rounds s.dir s.ekNr.toNat s.ek (s.ekNr.toNat + 1) b) s)
  | paid (hp : s.phase = .idle) (hd : s.done = true) : Owes s (resultOf s)

theorem owes_finish {s : State} {code : Nibble} {r : CommandResult} (h : resultOf (finish code s) = r) :
    Owes (finish code s) r := h ▸ .paid rfl rfl

/-! ### What the host does meanwhile -/

/-- No debt depends on DONE, OVR, DONE_IE or the model's own records. -/
theorem Owes.with_hostFields {s : State} {r : CommandResult} (h : Owes s r) (hp : s.phase ≠ .idle)
    (done ovr doneIe : Bool) (ms : List Move) (rs : List Reply) (n : Nat) :
    Owes { s with done := done, ovr := ovr, doneIe := doneIe, moves := ms, replies := rs, draws := n } r := by
  cases h with
  | dispatch hd => exact .dispatch hd
  | expander h => exact .expander { h with }
  | sequencer h => exact .sequencer { h with }
  | paid hidle => exact absurd hidle hp

/-- The host reaches none of the other fields while the engine is busy (R88). -/
theorem hostKeeps_owes (r : CommandResult) : HostKeeps fun s => s.phase ≠ .idle ∧ Owes s r where
  record s ms rs n := fun ⟨hp, h⟩ => ⟨hp, h.with_hostFields hp s.done s.ovr s.doneIe ms rs n⟩
  overrun s := fun ⟨hp, h⟩ => ⟨hp, h.with_hostFields hp s.done true s.doneIe s.moves s.replies s.draws⟩
  write s v reg hadm := fun ⟨hp, h⟩ => by
    have hb := (busy_iff s).2 hp
    obtain rfl | rfl := (writableWhileBusy_iff reg).1 (hadm.resolve_left (by simp [hb]))
    · exact ⟨hp, h.with_hostFields hp _ _ s.doneIe s.moves s.replies s.draws⟩
    · exact ⟨hp, h.with_hostFields hp s.done s.ovr _ s.moves s.replies s.draws⟩

/-! ### What the engine's step pays -/

theorem execKeyexp_owes {s t : State} (hd : decode s.cmdLast = .ok .keyexp) (h : execKeyexp s = .next t) :
    Owes t (atomicResult s) := by
  have hview : atomicResult s = keyexpResult s := by rw [atomicResult, hd]
  rw [hview, keyexpResult]
  obtain ⟨hl, hs⟩ | ⟨hl, hs⟩ := execKeyexp_cases s <;> cases hs.symm.trans h
  · rw [if_neg (by simp [hl])]
    exact owes_finish rfl
  · obtain ⟨hnk, hnr⟩ := nkOf_legal hl
    obtain ⟨ws, hws⟩ := expandedStore_isSome s.key ((legalNk_iff _).1 hnk)
    have hws' : expandedStore s.key (nkOf s.klen) = some ws := nkOf_toNat hl ▸ hws
    rw [if_pos hl, hws']
    exact .expander
      { running := rfl, alone := rfl, nk := hnk, nr := hnr, expansion := hws
        written := fun i hi => absurd hi (Nat.not_lt_zero i) }

theorem startCipher_owes {dir : Direction} {s t : State} (hinv : Inv s) (h : startCipher dir s = .next t) :
    Owes t (keyedResult (rounds dir s.ekNr.toNat s.ek (s.ekNr.toNat + 1)) s) := by
  obtain ⟨hk, hs⟩ | ⟨hk, hs⟩ := startCipher_cases dir s <;> cases hs.symm.trans h
  · rw [keyedResult, if_pos hk]
    exact owes_finish rfl
  · rw [keyedResult, if_neg (by simp [hk])]
    exact .sequencer { running := rfl, alone := rfl, inStore := hinv.ekNr_le hk, computed := rfl }

theorem execArk_owes {round : Nat} {s t : State} (h : execArk round s = .next t) : Owes t (arkResult round s) := by
  obtain ⟨hk, hs⟩ | ⟨hk, hr, hs⟩ | ⟨hk, hr, -, hs⟩ | ⟨-, -, -, hs⟩ := execArk_cases round s <;>
    cases hs.symm.trans h
  · rw [arkResult, if_neg (by simp [hk]), keyedResult, if_pos hk]
    exact owes_finish rfl
  · rw [arkResult, if_pos ⟨hk, hr⟩]
    exact owes_finish rfl
  · rw [arkResult, if_neg (by omega), keyedResult, if_neg (by simp [hk])]
    exact owes_finish rfl

theorem exec_owes {i : Instr} {s t : State} (hinv : Inv s) (hd : decode s.cmdLast = .ok i) (h : exec i s = .next t) :
    Owes t (atomicResult s) := by
  cases i with
  | nop | sb | isb | sr | isr | mc | imc | gfmul =>
    cases h
    exact owes_finish (by rw [atomicResult, hd]; rfl)
  | keyexp => exact execKeyexp_owes hd h
  | enc | dec =>
    rw [atomicResult, hd]
    exact startCipher_owes hinv h
  | ark round =>
    rw [atomicResult, hd]
    exact execArk_owes h

theorem stepKeyexp_owes {s t : State} {ws : List Word} (hinv : Inv s) (hx : Expands (alone s) ws)
    (h : stepKeyexp s = .next t) :
    Owes t { resultOf s with ek := some ws, keyValid := true, ekNk := s.kxNk, ekNr := s.kxNr, err := 0 } := by
  obtain ⟨-, -, -, hle⟩ := hinv.expander hx.running
  obtain ⟨hd, hs⟩ | ⟨w, hi, -, hw, hs⟩ | ⟨-, -, hs⟩ := stepKeyexp_cases s <;> cases hs.symm.trans h
  · obtain ⟨-, -, hge⟩ := (expanderDone_iff s).1 hd
    rw [← hx.store_eq (Nat.le_antisymm hle hge)]
    exact owes_finish rfl
  · obtain ⟨ek, hstep, hnext⟩ := hx.step_word hi
    have hwrite := hx.step_eq.trans (stepKeyexp_of_word (s := alone s) hi hw)
    obtain rfl : ek = s.ek.set s.kxI.toNat w hi :=
      congrArg State.ek (Host.Outcome.next.inj (hstep.symm.trans hwrite))
    exact .expander hnext

theorem stepCipher_owes {s t : State} {b : Block} (hx : Sequences (alone s) b) (h : stepCipher s = .next t) :
    Owes t (blockResult (rounds s.dir s.ekNr.toNat s.ek (s.ekNr.toNat + 1) b) s) := by
  have hround : roundFn s.dir s.rc.toNat s.ekNr.toNat s.ek s.st =
    rounds s.dir s.ekNr.toNat s.ek (s.rc.toNat + 1) b := hx.roundFn_eq
  obtain ⟨hrc, -, hs⟩ | ⟨hlt, -, hs⟩ | ⟨-, hs⟩ := stepCipher_cases s <;> cases hs.symm.trans h
  · rw [hround, hrc]
    exact owes_finish rfl
  · refine .sequencer { hx with computed := ?_ }
    rw [alone, rc_succ_toNat hlt, ← hround]

theorem Owes.engineStep {s t : State} {r : CommandResult} (hinv : Inv s) (h : Owes s r) (hs : engineStep s = .next t) :
    Owes t r := by
  cases h with
  | dispatch hp =>
    cases hd : decode s.cmdLast with
    | ok i => exact exec_owes hinv hd ((engineStep_dispatch hp hd).symm.trans hs)
    | error e =>
      cases (engineStep_illegal hp hd).symm.trans hs
      exact owes_finish (by rw [atomicResult, hd]; rfl)
  | expander hx => exact stepKeyexp_owes hinv hx ((engineStep_keyexp (s := s) hx.running).symm.trans hs)
  | sequencer hx => exact stepCipher_owes hx ((engineStep_cipher (s := s) hx.running).symm.trans hs)
  | paid hp hd =>
    rw [Machine.engineStep, hp] at hs
    cases hs
    exact .paid hp hd

/-! ### Runs with no reset -/

/-- No reset is among the moves to come. -/
def noReset (s : State) : Prop := ∀ m ∈ s.moves, m ≠ .reset

theorem busAccess_moves (a : Access) (s : State) : (busAccess a s).moves = s.moves := by
  obtain ⟨-, ha⟩ | ⟨off, -, ⟨-, ha⟩ | ⟨-, -, -, ha⟩ | ⟨v, -, -, -, ha⟩⟩ := busAccess_cases a s <;> rw [ha]
  · rfl
  · rfl
  · obtain ⟨w, n, hr⟩ := busRead_eq (regAt off) s
    rw [hr]
  · obtain ⟨-, -, hw⟩ | ⟨-, hw⟩ := busWrite_cases (regAt off) v s <;> rw [hw]
    obtain ⟨-, -, -, -, -, -, -, -, -, -, hmoves, -, -⟩ := writeReg_frame s v (regAt off)
    rw [answer_moves, hmoves]

theorem waitTurn_moves (s : State) : (waitTurn s).moves = if busy s then .engine :: .wait :: s.moves else s.moves := by
  obtain ⟨w, n, hr⟩ := busRead_eq .status s
  rw [waitTurn, hr]
  split <;> rfl

/-- The host's `wait` adds moves to the list, but no reset. -/
theorem noReset_step {s t : State} (h : noReset s) (hs : step s = .next t) : noReset t := by
  have rest : ∀ {m ms}, s.moves = m :: ms → ∀ m' ∈ ms, m' ≠ .reset :=
    fun hm m' hmem => h m' (hm ▸ List.mem_cons_of_mem _ hmem)
  obtain ⟨-, hst⟩ | ⟨ms, hm, hst⟩ | ⟨a, ms, hm, hst⟩ | ⟨ms, hm, hst⟩ | ⟨ms, hm, -⟩ := step_cases s
  · rw [noReset, (engineStep_leaves (hst.symm.trans hs)).moves]
    exact h
  · rw [noReset, (engineStep_leaves (hst.symm.trans hs)).moves]
    exact rest hm
  · cases hst.symm.trans hs
    rw [noReset, busAccess_moves]
    exact rest hm
  · cases hst.symm.trans hs
    rw [noReset, waitTurn_moves]
    split
    · simpa using rest hm
    · exact rest hm
  · exact absurd rfl (h .reset (hm ▸ List.mem_cons_self))

theorem Owes.step {s t : State} {r : CommandResult} (hinv : Inv s) (h : Owes s r) (hp : s.phase ≠ .idle)
    (hn : noReset s) (hs : step s = .next t) : Owes t r := by
  have host := hostKeeps_owes r
  have rest := fun ms => host.record s ms s.replies s.draws ⟨hp, h⟩
  obtain ⟨-, hst⟩ | ⟨ms, -, hst⟩ | ⟨a, ms, -, hst⟩ | ⟨ms, -, hst⟩ | ⟨ms, hm, -⟩ := step_cases s
  · exact h.engineStep hinv (hst.symm.trans hs)
  · exact (rest ms).2.engineStep (hostKeeps_inv.record s ms _ _ hinv) (hst.symm.trans hs)
  · cases hst.symm.trans hs
    exact (host.busAccess a (rest ms)).2
  · cases hst.symm.trans hs
    exact (host.waitTurn (rest ms)).2
  · exact absurd rfl (hn .reset (hm ▸ List.mem_cons_self))

theorem Owes.run {s t : State} {r : CommandResult} {k : Nat} (hinv : Inv s) (h : Owes s r) (hn : noReset s)
    (hrun : run k s = .next t) (hbusy : ∀ j u, j < k → run j s = .next u → u.phase ≠ .idle) : Owes t r := by
  induction k generalizing s with
  | zero => cases hrun; exact h
  | succ k ih =>
    obtain ⟨s', hs⟩ := noStepStopsFromAGoodState s hinv
    have hp : s.phase ≠ .idle := hbusy 0 s (Nat.succ_pos k) rfl
    exact ih (engineInvariantIsKept s s' hinv hs) (h.step hinv hp hn hs) (noReset_step hn hs)
      ((run_succ_of_next k hs).symm.trans hrun)
      fun j u hj hu => hbusy (j + 1) u (Nat.succ_lt_succ hj) ((run_succ_of_next j hs).trans hu)

theorem Owes.paid_of_idle {s : State} {r : CommandResult} (h : Owes s r) (hp : s.phase = .idle) :
    resultOf s = r ∧ s.done = true := by
  cases h with
  | paid _ hd => exact ⟨rfl, hd⟩
  | dispatch hd => cases hp.symm.trans hd
  | expander hx => cases hp.symm.trans hx.running
  | sequencer hx => cases hp.symm.trans hx.running

/-- Settles O51: at acceptance the command owes its atomic view, and the first idle state has paid it. -/
theorem commandsAreAtomic : Obligations.CommandsAreAtomic :=
  fun _ _ _ hinv hp hn hrun hidle hbusy => ((Owes.dispatch hp).run hinv hn hrun hbusy).paid_of_idle hidle

end Sys2Proof.Machine

/-! # Exceptions: what a dispatch step raises, the precise state after it, and the interrupt output

The cause of each error is stated once (`ErrorCause`); no state has two (`ErrorCause.unique`), and a dispatch step that
ends its command raises the error that has its cause, or none (`engineStep_endsAsCaused`). The interrupt output is
followed through one equation for each register that a write reaches. -/

namespace Sys2Proof.Machine

/-! ## The causes of the errors (R300 to R307) -/

/-- The cause of each error in the dispatch step of the command in CMD_LAST (R301 to R304). -/
def ErrorCause (s : State) : CmdError → Prop
  | .illegal => ∃ e, decode s.cmdLast = .error e
  | .keylen => decode s.cmdLast = .ok .keyexp ∧ ¬ (s.klen.toNat = 16 ∨ s.klen.toNat = 24 ∨ s.klen.toNat = 32)
  | .nokey => s.keyValid = false ∧
      (decode s.cmdLast = .ok .enc ∨ decode s.cmdLast = .ok .dec ∨ ∃ r, decode s.cmdLast = .ok (.ark r))
  | .range => s.keyValid = true ∧ ∃ r, decode s.cmdLast = .ok (.ark r) ∧ s.ekNr.toNat < r

/-- The state that the completion with an error starts from: KEYEXP has cleared the schedule's flags (R190). -/
def errorBase (s : State) : CmdError → State
  | .keylen => { s with keyValid := false, ekNk := 0, ekNr := 0 }
  | .illegal | .nokey | .range => s

/-- The completed state `t` is the one that the error with its cause in `s` leaves; with no cause, ERR is 0. -/
def EndsAsCaused (s t : State) : Prop :=
  (∃ e, ErrorCause s e ∧ t = finish (errorCode e) (errorBase s e)) ∨ ((∀ e, ¬ ErrorCause s e) ∧ t.err = 0)

theorem errorCode_injective {e e' : CmdError} : errorCode e = errorCode e' → e = e' := by
  cases e <;> cases e' <;> decide

theorem errorCode_ne_zero (e : CmdError) : errorCode e ≠ 0 := by cases e <;> decide

theorem errorCode_le (e : CmdError) : (errorCode e).toNat ≤ 4 := by cases e <;> decide

section
variable {s t : State} {e e' : CmdError}

/-- No state has the causes of two errors: the command tells them apart, and for ARK, which R307 has check for a schedule
first, KEY_VALID. -/
theorem ErrorCause.unique (h : ErrorCause s e) (h' : ErrorCause s e') : e = e' := by
  cases e with
  | illegal =>
    obtain ⟨_, hd⟩ := h
    cases e' <;> simp [ErrorCause, hd] at h' ⊢
  | keylen =>
    obtain ⟨hd, -⟩ := h
    cases e' <;> simp [ErrorCause, hd] at h' ⊢
  | nokey =>
    obtain ⟨hk, hd | hd | ⟨r, hd⟩⟩ := h <;> cases e' <;> simp [ErrorCause, hd, hk] at h' ⊢
  | range =>
    obtain ⟨hk, r, hd, -⟩ := h
    cases e' <;> simp [ErrorCause, hd, hk] at h' ⊢

theorem EndsAsCaused.err_eq_iff (h : EndsAsCaused s t) (e : CmdError) : t.err = errorCode e ↔ ErrorCause s e := by
  obtain ⟨e', hc, rfl⟩ | ⟨hnone, herr⟩ := h
  · exact ⟨fun heq => errorCode_injective heq ▸ hc, fun hc' => congrArg errorCode (hc.unique hc')⟩
  · exact ⟨fun heq => absurd (heq.symm.trans herr) (errorCode_ne_zero e), fun hc => absurd hc (hnone e)⟩

theorem EndsAsCaused.err_le (h : EndsAsCaused s t) : t.err.toNat ≤ 4 := by
  obtain ⟨e, -, rfl⟩ | ⟨-, herr⟩ := h
  · exact errorCode_le e
  · simp [herr]

/-! ## How a dispatch step ends (R282, R284) -/

theorem execKeyexp_endsAsCaused (hd : decode s.cmdLast = .ok .keyexp) (h : execKeyexp s = .next t)
    (ht : t.phase = .idle) : EndsAsCaused s t := by
  obtain ⟨hl, hs⟩ | ⟨-, hs⟩ := execKeyexp_cases s <;> cases hs.symm.trans h
  · exact .inl ⟨.keylen, ⟨hd, by simp [← legalKlen_iff, hl]⟩, rfl⟩
  · cases ht

theorem startCipher_endsAsCaused {dir : Direction} (hd : decode s.cmdLast = .ok .enc ∨ decode s.cmdLast = .ok .dec)
    (h : startCipher dir s = .next t) (ht : t.phase = .idle) : EndsAsCaused s t := by
  obtain ⟨hk, hs⟩ | ⟨-, hs⟩ := startCipher_cases dir s <;> cases hs.symm.trans h
  · exact .inl ⟨.nokey, ⟨hk, hd.imp_right .inl⟩, rfl⟩
  · cases ht

theorem execArk_endsAsCaused {r : Nat} (hd : decode s.cmdLast = .ok (.ark r)) (h : execArk r s = .next t) :
    EndsAsCaused s t := by
  obtain ⟨hk, hs⟩ | ⟨hk, hr, hs⟩ | ⟨hk, hr, -, hs⟩ | ⟨-, -, -, hs⟩ := execArk_cases r s <;> cases hs.symm.trans h
  · exact .inl ⟨.nokey, ⟨hk, .inr (.inr ⟨r, hd⟩)⟩, rfl⟩
  · exact .inl ⟨.range, ⟨hk, r, hd, hr⟩, rfl⟩
  · exact .inr ⟨fun e => by cases e <;> simp [ErrorCause, hd, hk, hr], rfl⟩

theorem exec_endsAsCaused {i : Instr} (hd : decode s.cmdLast = .ok i) (h : exec i s = .next t) (ht : t.phase = .idle) :
    EndsAsCaused s t := by
  cases i with
  | nop | sb | isb | sr | isr | mc | imc | gfmul =>
    cases h
    exact .inr ⟨fun e => by cases e <;> simp [ErrorCause, hd], rfl⟩
  | keyexp => exact execKeyexp_endsAsCaused hd h ht
  | enc => exact startCipher_endsAsCaused (.inl hd) h ht
  | dec => exact startCipher_endsAsCaused (.inr hd) h ht
  | ark r => exact execArk_endsAsCaused hd h

theorem engineStep_endsAsCaused (hp : s.phase = .dispatch) (h : engineStep s = .next t) (ht : t.phase = .idle) :
    EndsAsCaused s t := by
  cases hd : decode s.cmdLast with
  | ok i => exact exec_endsAsCaused hd ((engineStep_dispatch hp hd).symm.trans h) ht
  | error e =>
    cases (engineStep_illegal hp hd).symm.trans h
    exact .inl ⟨.illegal, ⟨e, hd⟩, rfl⟩

/-- A completion of the expander or of the sequencer is `complete()`, with no error (R284). -/
theorem engineStep_laterCompletion (hp : s.phase = .keyexp ∨ s.phase = .cipher) (h : engineStep s = .next t)
    (ht : t.phase = .idle) : t.err = 0 := by
  obtain hp | hp := hp
  · rw [engineStep_keyexp hp] at h
    obtain ⟨-, hs⟩ | ⟨w, hi, -, -, hs⟩ | ⟨-, -, hs⟩ := stepKeyexp_cases s <;> cases hs.symm.trans h
    · rfl
    · cases hp.symm.trans ht
  · rw [engineStep_cipher hp] at h
    obtain ⟨-, -, hs⟩ | ⟨-, -, hs⟩ | ⟨-, hs⟩ := stepCipher_cases s <;> cases hs.symm.trans h
    · rfl
    · cases hp.symm.trans ht

end

/-- Settles O53: the code is the one whose error has its cause, by `EndsAsCaused.err_eq_iff`. -/
theorem errorCodesHaveTheirCauses : Obligations.ErrorCodesHaveTheirCauses := by
  refine ⟨fun _ _ => engineStep_laterCompletion, fun s t hp h ht => ?_⟩
  have hends := engineStep_endsAsCaused hp h ht
  exact ⟨hends.err_eq_iff .illegal, hends.err_eq_iff .keylen, hends.err_eq_iff .nokey, hends.err_eq_iff .range,
    hends.err_le⟩

/-- Settles O54: an error leaves `finish` of `errorBase`, and only ERR_KEYLEN, which is KEYEXP's, has another base than the
state before. -/
theorem errorsArePrecise : Obligations.ErrorsArePrecise := by
  intro s t hp h ht herr
  obtain ⟨e, hc, rfl⟩ | ⟨-, hzero⟩ := engineStep_endsAsCaused hp h ht
  · cases e with
    | keylen =>
      obtain ⟨hd, -⟩ := hc
      exact ⟨fun hne => absurd hd hne, fun _ => rfl⟩
    | illegal | nokey | range => exact ⟨fun _ => rfl, fun hd => by simp [ErrorCause, hd] at hc⟩
  · exact absurd hzero herr

/-- Settles O8: the dispatch step is `finish 1`, and CTRL reads CMD_LAST in every state. -/
theorem illegalCommandRaisesErrIllegal : Obligations.IllegalCommandRaisesErrIllegal := fun s _ hp hd =>
  ⟨finish 1 s, engineStep_illegal hp hd, rfl, reads_of_defined (off := 0x000) (by decide) rfl (.inr rfl)⟩

/-! ## The interrupt output (R310, R311) -/

theorem irq_iff (s : State) : irq s = true ↔ s.done = true ∧ s.doneIe = true := Bool.and_eq_true_iff

/-- Settles O18: a completion sets DONE (`engineStep_completes`), and no engine step writes DONE_IE. -/
theorem interruptOutputIsDoneAndEnable : Obligations.InterruptOutputIsDoneAndEnable :=
  ⟨irq_iff, fun _ t hp hie h ht =>
    (irq_iff t).2 ⟨engineStep_completes hp h ht, (engineStep_leaves h).doneIe.trans hie⟩⟩

section
variable {s t : State}

theorem exec_keeps_done {i : Instr} (hdone : s.done = true) (h : exec i s = .next t) : t.done = true := by
  obtain ⟨code, st, p, -, -, rfl⟩ | ⟨-, hk⟩ | ⟨dir, -, rfl⟩ := exec_next_cases h
  · rfl
  · obtain ⟨-, hs⟩ | ⟨-, hs⟩ := execKeyexp_cases s <;> cases hs.symm.trans hk
    · rfl
    · exact hdone
  · exact hdone

/-- The engine sets DONE at a completion and never clears it. -/
theorem engineStep_keeps_done (hdone : s.done = true) (h : engineStep s = .next t) : t.done = true := by
  obtain ⟨-, he⟩ | ⟨-, i, -, he⟩ | ⟨-, e, -, he⟩ | ⟨-, he⟩ | ⟨-, he⟩ := engineStep_cases s <;> rw [he] at h
  · cases h; exact hdone
  · exact exec_keeps_done hdone h
  · cases h; rfl
  · obtain ⟨-, hs⟩ | ⟨w, hi, -, -, hs⟩ | ⟨-, -, hs⟩ := stepKeyexp_cases s <;> cases hs.symm.trans h
    · rfl
    · exact hdone
  · obtain ⟨-, -, hs⟩ | ⟨-, -, hs⟩ | ⟨-, hs⟩ := stepCipher_cases s <;> cases hs.symm.trans h
    · rfl
    · exact hdone

theorem engineStep_keeps_irq (hirq : irq s = true) (h : engineStep s = .next t) : irq t = true := by
  obtain ⟨hdone, hie⟩ := (irq_iff s).1 hirq
  exact (irq_iff t).2 ⟨engineStep_keeps_done hdone h, (engineStep_leaves h).doneIe.trans hie⟩

theorem irq_busRead (reg : Reg) (s : State) : irq (busRead reg s) = irq s := by
  obtain ⟨w, n, hr⟩ := busRead_eq reg s
  rw [hr]
  rfl

theorem irq_waitTurn (s : State) : irq (waitTurn s) = irq s := by
  obtain ⟨w, ms, n, hw⟩ := waitTurn_eq s
  rw [hw]
  rfl

/-- Acceptance takes irq down; a dropped command word leaves it. -/
theorem irq_busWrite_ctrl (v : Word) (s : State) : irq (busWrite .ctrl v s) = (busy s && irq s) := by
  cases hb : busy s <;> simp [busWrite, hb, writableWhileBusy, writeReg, irq]

theorem irq_busWrite_status (v : Word) (s : State) : irq (busWrite .status v s) = (irq s && !v.getLsbD 1) := by
  rw [busWrite_status, irq, irq, answer_done, answer_doneIe, clearStatus_done, clearStatus_doneIe, Bool.and_right_comm]

theorem irq_busWrite_inten (v : Word) (s : State) : irq (busWrite .inten v s) = (s.done && v.getLsbD 0) := by
  simp [busWrite, writableWhileBusy, writeReg, irq]

theorem irq_writeReg_other (s : State) (v : Word) {reg : Reg} (hctrl : reg ≠ .ctrl) (hstatus : reg ≠ .status)
    (hinten : reg ≠ .inten) : irq (writeReg s v reg) = irq s := by
  cases reg with
  | ctrl | status | inten => contradiction
  | keylen | key | state | gfop | gfres | expkey | reserved => rfl

theorem irq_busWrite_other (v : Word) (s : State) {reg : Reg} (hctrl : reg ≠ .ctrl) (hstatus : reg ≠ .status)
    (hinten : reg ≠ .inten) : irq (busWrite reg v s) = irq s := by
  obtain ⟨-, -, hw⟩ | ⟨-, hw⟩ := busWrite_cases reg v s <;> rw [hw]
  · rfl
  · exact irq_writeReg_other s v hctrl hstatus hinten

/-- What a write has to be to take irq down. -/
theorem busWrite_clears_irq {off : Nat} {v : Word} (h4 : off % 4 = 0) (hirq : irq s = true)
    (hclear : irq (busWrite (regAt off) v s) = false) :
    (off = 0x004 ∧ v.getLsbD 1 = true) ∨ (s.phase = .idle ∧ off = 0x000) ∨ (off = 0x008 ∧ v.getLsbD 0 = false) := by
  obtain ⟨hdone, -⟩ := (irq_iff s).1 hirq
  have hoff := regAt_covers h4
  cases hreg : regAt off with
  | ctrl =>
    rw [hreg] at hoff hclear
    rw [irq_busWrite_ctrl, hirq, Bool.and_true] at hclear
    exact .inr (.inl ⟨(not_busy_iff s).1 hclear, hoff⟩)
  | status =>
    rw [hreg] at hoff hclear
    rw [irq_busWrite_status, hirq, Bool.true_and, Bool.not_eq_false'] at hclear
    exact .inl ⟨hoff, hclear⟩
  | inten =>
    rw [hreg] at hoff hclear
    rw [irq_busWrite_inten, hdone, Bool.true_and] at hclear
    exact .inr (.inr ⟨hoff, hclear⟩)
  | keylen | key | state | gfop | gfres | expkey | reserved =>
    rw [irq_busWrite_other v s (by simp [hreg]) (by simp [hreg]) (by simp [hreg]), hirq] at hclear
    cases hclear

theorem busAccess_clears_irq {a : Access} (hirq : irq s = true) (hclear : irq (busAccess a s) = false) :
    (∃ v : Word, isWrite (.access a) 0x004 v ∧ v.getLsbD 1 = true) ∨
      (s.phase = .idle ∧ ∃ v : Word, isWrite (.access a) 0x000 v) ∨
      (∃ v : Word, isWrite (.access a) 0x008 v ∧ v.getLsbD 0 = false) := by
  obtain ⟨-, ha⟩ | ⟨off, hoff, ⟨-, ha⟩ | ⟨-, -, -, ha⟩ | ⟨v, hb, h4, hk, ha⟩⟩ := busAccess_cases a s <;>
    rw [ha] at hclear
  · cases hirq.symm.trans hclear
  · cases hirq.symm.trans hclear
  · cases hirq.symm.trans ((irq_busRead _ s).symm.trans hclear)
  · have hwrite : isWrite (.access a) off v := ⟨a, rfl, hoff, hb, h4, hk⟩
    obtain ⟨rfl, hbit⟩ | ⟨hp, rfl⟩ | ⟨rfl, hbit⟩ := busWrite_clears_irq h4 hirq hclear
    · exact .inl ⟨v, hwrite, hbit⟩
    · exact .inr (.inl ⟨hp, v, hwrite⟩)
    · exact .inr (.inr ⟨v, hwrite, hbit⟩)

/-- An admitted write, whichever access it is. -/
theorem stepWith_of_isWrite {m : Move} {off : Nat} {v : Word} (h : isWrite m off v) :
    stepWith m s = .next (busWrite (regAt off) v s) := by
  obtain ⟨a, rfl, hoff, hb, h4, hk⟩ := h
  rw [stepWith_access, busAccess_admitted s hoff hb h4, hk]

end

/-- Settles O19: each listed move takes irq down, by the equation of its register; conversely the engine, `wait` and every
access but the listed writes keep it. -/
theorem interruptFallsOnlyAsListed : Obligations.InterruptFallsOnlyAsListed := by
  refine ⟨fun s t m hirq h => ⟨fun hclear => ?onlyThese, ?eachFalls⟩, fun _ => rfl⟩
  case onlyThese =>
    cases m with
    | reset => exact .inl rfl
    | engine => cases (engineStep_keeps_irq hirq h).symm.trans hclear
    | wait =>
      cases h
      cases hirq.symm.trans ((irq_waitTurn s).symm.trans hclear)
    | access a =>
      cases h
      exact .inr (busAccess_clears_irq hirq hclear)
  case eachFalls =>
    rintro (rfl | ⟨v, hw, hbit⟩ | ⟨hp, v, hw⟩ | ⟨v, hw, hbit⟩)
    · cases h; rfl
    · cases (stepWith_of_isWrite hw).symm.trans h
      exact (irq_busWrite_status v s).trans (by rw [hbit, Bool.not_true, Bool.and_false])
    · cases (stepWith_of_isWrite hw).symm.trans h
      exact (irq_busWrite_ctrl v s).trans (by rw [(not_busy_iff s).2 hp, Bool.false_and])
    · cases (stepWith_of_isWrite hw).symm.trans h
      exact (irq_busWrite_inten v s).trans (by rw [hbit, Bool.and_false])

end Sys2Proof.Machine

/-! # Reset: the fields, the registers and the invariant after the reset action (R340, R341, R343)

The reset action in any state leaves every register reading 0 (`readReg_resetAction`) and the engine idle, so no read of
one is a free value; `State.reset` is the outcome of the action on itself (`resetAction_reset`). -/

namespace Sys2Proof.Machine

theorem resetAction_reset : resetAction State.reset = State.reset := rfl

theorem irq_resetAction (s : State) : irq (resetAction s) = false := rfl

theorem busy_resetAction (s : State) : busy (resetAction s) = false := rfl

theorem readReg_reset (reg : Reg) : readReg State.reset reg = 0 := by
  cases reg with
  | key j => exact Vector.getElem_replicate j.isLt
  | expkey i => exact Vector.getElem_replicate i.isLt
  | state c => decide +revert
  | ctrl | status | inten | keylen | gfop | gfres | reserved => decide

theorem readReg_resetAction (s : State) (reg : Reg) : readReg (resetAction s) reg = 0 := by
  have hreset : readReg (resetAction s) reg = readReg State.reset reg := by cases reg <;> rfl
  exact hreset.trans (readReg_reset reg)

theorem reads_zero_resetAction (s : State) {off : Nat} (h4 : off % 4 = 0) (hlt : off < 0x200) :
    reads off 0 (resetAction s) :=
  readReg_resetAction s (regAt off) ▸ reads_of_defined hlt h4 (.inl (busy_resetAction s))

/-- Settles O17: every register reads 0 after the reset action, and the reset state is an outcome of that action. -/
theorem registersReadZeroAfterReset : Obligations.RegistersReadZeroAfterReset := by
  refine ⟨irq_resetAction State.reset, fun off h4 hlt => ?resetState, fun s t ht => ?afterAction⟩
  case resetState => exact resetAction_reset ▸ reads_zero_resetAction State.reset h4 hlt
  case afterAction =>
    cases (stepWith_reset s).symm.trans ht
    exact ⟨irq_resetAction s, fun off => reads_zero_resetAction s⟩

/-- Settles O16: the step is `resetAction`, whose fields are those of `State.reset`; KEY, ST and EK are 0 in each entry. -/
theorem resetClearsEveryField : Obligations.ResetClearsEveryField := fun s =>
  ⟨resetAction s, stepWith_reset s, resetAction_cmdLast s, resetAction_done s, resetAction_keyValid s, resetAction_ovr s,
    resetAction_err s, resetAction_ekNr s, resetAction_ekNk s, resetAction_doneIe s, resetAction_klen s,
    fun _ hj => Vector.getElem_replicate hj, fun _ hi => Vector.getElem_replicate hi, resetAction_gfA s,
    resetAction_gfB s, resetAction_gfP s, fun _ hi => Vector.getElem_replicate hi, resetAction_phase s, resetAction_rc s,
    resetAction_dir s, resetAction_kxI s, resetAction_kxNk s, resetAction_kxNr s, irq_resetAction s⟩

/-- Settles O44: `inv_reset`, the base of O43, and `scheduleSound_reset`, the base of O46. -/
theorem resetMeetsTheInvariant : Obligations.ResetMeetsTheInvariant := ⟨inv_reset, scheduleSound_reset⟩

end Sys2Proof.Machine
